-- ==== Sys2Proof/Word.lean ====
section
/-! DEFINITION. The words of the unit (spec/00_scope.md R6): 64-bit datapath words, 32-bit command
words, bytes, and the four-word group that serves as xoshiro256 state, operand lanes and jump
polynomial. The arithmetic on words is in Machine/Arith.lean. -/

namespace Sys2Proof

/-- A datapath word: 64 bits, bit 0 least significant (R6, and W = 64 of R5). -/
abbrev Word := BitVec 64

/-- A command word: 32 bits, numbered the same way (R6, R70). -/
abbrev CmdWord := BitVec 32

/-- A byte, used only where words are stored as bytes (spec/20_memory.md R55). -/
abbrev Byte := BitVec 8

/-- Four words in order: the source's `[s0, s1, s2, s3]` (NS = 4 of R5). The same shape carries the
xoshiro256 state (R32), the operand lanes `OP[0..3]` (R52) and a jump polynomial `P[0..3]` (R150). -/
@[ext]
structure Quad where
  w0 : Word
  w1 : Word
  w2 : Word
  w3 : Word
deriving DecidableEq, Repr

namespace Quad

/-- The four words, word 0 first (R54). -/
def toList (q : Quad) : List Word := [q.w0, q.w1, q.w2, q.w3]

/-- Four zero words: the degenerate state of R126, and the cleared accumulators of R150. -/
def zero : Quad := ⟨0, 0, 0, 0⟩

/-- Word-by-word exclusive OR, as the jump accumulates (R150) and as R123 states linearity. -/
def xor (a b : Quad) : Quad := ⟨a.w0 ^^^ b.w0, a.w1 ^^^ b.w1, a.w2 ^^^ b.w2, a.w3 ^^^ b.w3⟩

end Quad

end Sys2Proof
end

