-- ==== Sys2Proof/Machine/Constants.lean ====
section
/-! DEFINITION. The constants of spec/00_scope.md R5. They are wired values or parameters, not state:
no command changes them (spec/10_state.md R42). -/

namespace Sys2Proof.Machine

/-- GAMMA, the SplitMix64 increment (R5, R101). -/
def GAMMA : Word := 0x9e3779b97f4a7c15

/-- MUL1, the first finalizer multiplier (R5, R100). -/
def MUL1 : Word := 0xbf58476d1ce4e5b9

/-- MUL2, the second finalizer multiplier (R5, R100). -/
def MUL2 : Word := 0x94d049bb133111eb

/-- DEFAULT_SEED = 1234567890 (R5): the reset value of `SM` (R40) and the operand of a bare SMSEED
(R81). -/
def DEFAULT_SEED : Word := 0x00000000499602d2

/-- JUMP_POLY (R152), the parameter's default (log entry 7). -/
def JUMP_POLY : Quad :=
  ⟨0x180ec6d33cfd0aba, 0xd5a61266f0c9392c, 0xa9582618e03fc9aa, 0x39abdc4529b1661c⟩

/-- LJUMP_POLY (R153), the parameter's default (log entry 7). -/
def LJUMP_POLY : Quad :=
  ⟨0x76e15d3efefdcbbf, 0xc5004e441c522fb3, 0x77710069854ee241, 0x39109bb02acbe635⟩

end Sys2Proof.Machine
end

