-- ==== Sys2Proof/Machine/Arith.lean ====
section
/-! DEFINITION. The arithmetic primitives of spec/00_scope.md R8 to R14: unsigned 64-bit, wrapping,
with no flag and no error (R15). -/

namespace Sys2Proof.Machine

/-- `a + b` modulo 2^64; the carry out of bit 63 is discarded (R8). -/
def add64 (a b : Word) : Word := a + b

/-- `a * b` modulo 2^64; the high 64 bits of the product are discarded (R9). -/
def mul64 (a b : Word) : Word := a * b

/-- Left shift; the bits past bit 63 are discarded and zeros come in (R11). -/
def shl (x : Word) (s : Nat) : Word := x <<< s

/-- Logical right shift; zeros come in (R12). -/
def shr (x : Word) (s : Nat) : Word := x >>> s

/-- Rotate left by `s`, 1 ≤ s ≤ 63 (R13). Outside that range the formula is kept and no rule calls it
(log entry 9). -/
def rotl (x : Word) (s : Nat) : Word := shl x s ||| shr x (64 - s)

/-- `x ^ (x >> k)`, one xor-shift of the finalizer (R100). -/
def xorShr (x : Word) (k : Nat) : Word := x ^^^ shr x k

/-- A flag or the outcome of a comparison as a data word: bit 0, bits 63:1 zero (R35, R106, R128). -/
def boolWord (b : Bool) : Word := if b then 1 else 0

end Sys2Proof.Machine
end

