-- ==== Sys2Proof/Machine/Bytes.lean ====
section
/-! DEFINITION. Words as bytes (spec/20_memory.md R55): little-endian, a four-word state word 0
first. The unit itself takes and returns whole words only; this order is the one a host's buffers and
files of test vectors use. -/

namespace Sys2Proof

/-- The n low bytes of a bit vector, least significant first: byte k is bits `[8k+7 : 8k]`. -/
def bytesLE {m : Nat} (n : Nat) (w : BitVec m) : List Byte :=
  (List.range n).map fun k => w.extractLsb' (8 * k) 8

/-- The number that bytes spell, the first byte least significant. -/
def natOfBytesLE : List Byte → Nat
  | [] => 0
  | b :: bs => b.toNat + 256 * natOfBytesLE bs

/-- A word stored as eight bytes, byte 0 at the lowest address (R55). -/
def wordBytes (w : Word) : List Byte := bytesLE 8 w

/-- The word that eight bytes spell. -/
def wordOfBytes (bs : List Byte) : Word := BitVec.ofNat 64 (natOfBytesLE bs)

/-- A command word stored as four bytes (R55). -/
def cmdBytes (w : CmdWord) : List Byte := bytesLE 4 w

/-- The command word that four bytes spell. -/
def cmdOfBytes (bs : List Byte) : CmdWord := BitVec.ofNat 32 (natOfBytesLE bs)

/-- A four-word state stored as 32 bytes, word 0 first (R55). -/
def quadBytes (q : Quad) : List Byte :=
  wordBytes q.w0 ++ wordBytes q.w1 ++ wordBytes q.w2 ++ wordBytes q.w3

/-- The four-word state that 32 bytes spell. -/
def quadOfBytes (bs : List Byte) : Quad :=
  ⟨wordOfBytes (bs.take 8), wordOfBytes ((bs.drop 8).take 8), wordOfBytes ((bs.drop 16).take 8),
    wordOfBytes ((bs.drop 24).take 8)⟩

end Sys2Proof
end

