-- ==== Sys2Proof/Syntax.lean ====
section
/-! DEFINITION. The commands of the unit: one constructor per row of spec/opcode_table.json
(spec/30_encoding.md R74). The 64-bit operands are not part of a command word; they travel on the
operand lanes (R52) and are held in the machine's state. -/

namespace Sys2Proof

/-- The output variants, selected by the VAR field of XNEXT (R78). -/
inductive Variant where
  | plus       -- VAR = 0, xoshiro256+
  | plusPlus   -- VAR = 1, xoshiro256++
  | starStar   -- VAR = 2, xoshiro256**
deriving DecidableEq, Repr

/-- The eighteen rows of the opcode table: sixteen commands, XNEXT counted once per variant (R74). -/
inductive Instr where
  /-- SMSEED: load the SplitMix64 state (R102). -/
  | smseed
  /-- SMNEXT: one SplitMix64 output (R103). -/
  | smnext
  /-- SMGEN n: n SplitMix64 outputs (R104); n is the field N, a count (R79). -/
  | smgen (n : Nat)
  /-- SMSAVE: read the SplitMix64 state (R105). -/
  | smsave
  /-- SMEQ: compare the SplitMix64 state (R106). -/
  | smeq
  /-- XSEED: load the xoshiro256 state from a scalar seed (R121). -/
  | xseed
  /-- XLOAD: load the xoshiro256 state from four words (R122). -/
  | xload
  /-- XNEXT.P: one xoshiro256+ output (R125). -/
  | xnextP
  /-- XNEXT.PP: one xoshiro256++ output (R125). -/
  | xnextPP
  /-- XNEXT.SS: one xoshiro256** output (R125). -/
  | xnextSS
  /-- XJUMP: advance the xoshiro256 state by 2^128 steps (R154). -/
  | xjump
  /-- XLJUMP: advance the xoshiro256 state by 2^192 steps (R155). -/
  | xljump
  /-- XSAVE: read the xoshiro256 state (R127). -/
  | xsave
  /-- XEQ: compare the xoshiro256 state (R128). -/
  | xeq
  /-- GMIN: the smallest output (R170). -/
  | gmin
  /-- GMAX: the largest output (R171). -/
  | gmax
  /-- U2D: convert a word to a double in [0, 1) (R173). -/
  | u2d
  /-- STAT: read the status word (R174). -/
  | stat
deriving DecidableEq, Repr

/-- The XNEXT command of a variant. -/
def Variant.xnext : Variant → Instr
  | .plus => .xnextP
  | .plusPlus => .xnextPP
  | .starStar => .xnextSS

end Sys2Proof
end

