-- ==== Sys2Proof/WellFormed.lean ====
section
/-! DEFINITION. Which commands have a command word: the count of SMGEN fits its 8-bit field
(spec/30_encoding.md R79); every other command has no operand in its word (R71, R72). -/

namespace Sys2Proof

/-- The check, as a Bool. `SMGEN 256` is not a command (R79; spec/93_implementation_defined.md K14). -/
def Instr.wf : Instr → Bool
  | .smgen n => decide (n < 256)
  | .smseed | .smnext | .smsave | .smeq | .xseed | .xload | .xnextP | .xnextPP | .xnextSS
  | .xjump | .xljump | .xsave | .xeq | .gmin | .gmax | .u2d | .stat => true

/-- A well-formed command. -/
abbrev Instr.WellFormed (i : Instr) : Prop := i.wf = true

end Sys2Proof
end

