-- ==== Sys2Proof/Decode.lean ====
section
/-! DEFINITION. The decoder (spec/30_encoding.md R70 to R79), total on every 32-bit word and on every
list of bytes, refusing by name; and after it the encoder, written from the same fields. -/

namespace Sys2Proof

/-- Why a command word is illegal: the cases (a), (b), (c) of R76; and, for a list of bytes only, that
it is shorter than one command word. -/
inductive IllegalWord where
  | unassignedOpcode   -- (a) OPC is not one of the sixteen assigned values
  | reservedBits       -- (b) a bit that the format requires to be zero is one
  | reservedVariant    -- (c) XNEXT with VAR = 3
  | truncated          -- fewer than four bytes (no command word is shorter than 32 bits, R70)
deriving DecidableEq, Repr

/-- What a command word decodes to. -/
inductive Decoded where
  | instr (i : Instr)
  | illegal (why : IllegalWord)
deriving DecidableEq, Repr

/-- The command, if there is one. -/
def Decoded.instr? : Decoded → Option Instr
  | .instr i => some i
  | .illegal _ => none

/-- The word was a legal command word. -/
def Decoded.isLegal : Decoded → Bool
  | .instr _ => true
  | .illegal _ => false

/-- OPC, bits 7:0 (R70). -/
def fieldOPC (w : CmdWord) : BitVec 8 := w.extractLsb' 0 8

/-- VAR, bits 9:8 (R70, R78). -/
def fieldVAR (w : CmdWord) : BitVec 2 := w.extractLsb' 8 2

/-- N, bits 23:16 (R70, R79). -/
def fieldN (w : CmdWord) : BitVec 8 := w.extractLsb' 16 8

/-- Bits 31:8, which format Z requires to be zero (R71). -/
def reservedZ (w : CmdWord) : BitVec 24 := w.extractLsb' 8 24

/-- Bits 31:10, which format V requires to be zero (R72). -/
def reservedV (w : CmdWord) : BitVec 22 := w.extractLsb' 10 22

/-- Bits 15:8, which format N requires to be zero (R73). -/
def reservedNLow (w : CmdWord) : BitVec 8 := w.extractLsb' 8 8

/-- Bits 31:24, which format N requires to be zero (R73). -/
def reservedNHigh (w : CmdWord) : BitVec 8 := w.extractLsb' 24 8

/-- Format Z: no field but the opcode (R71). -/
def decodeZ (w : CmdWord) (i : Instr) : Decoded :=
  if reservedZ w = 0#24 then .instr i else .illegal .reservedBits

/-- Format N: SMGEN and its count (R73). -/
def decodeN (w : CmdWord) : Decoded :=
  if reservedNHigh w = 0#8 ∧ reservedNLow w = 0#8 then .instr (.smgen (fieldN w).toNat)
  else .illegal .reservedBits

/-- The variant that a value of VAR selects; 3 is reserved (R78). -/
def variantOf (v : BitVec 2) : Option Variant :=
  if v = 0#2 then some .plus else if v = 1#2 then some .plusPlus else if v = 2#2 then some .starStar
  else none

/-- Format V: XNEXT and its variant (R72, R78). -/
def decodeV (w : CmdWord) : Decoded :=
  if reservedV w = 0#22 then
    match variantOf (fieldVAR w) with
    | some v => .instr v.xnext
    | none => .illegal .reservedVariant
  else .illegal .reservedBits

/-- The fourteen opcodes of format Z, the third branch of R75 (R74). -/
def zCommands : List (BitVec 8 × Instr) :=
  [(0x10, .smseed), (0x11, .smnext), (0x13, .smsave), (0x14, .smeq),
    (0x20, .xseed), (0x21, .xload), (0x23, .xjump), (0x24, .xljump), (0x25, .xsave), (0x26, .xeq),
    (0x30, .gmin), (0x31, .gmax), (0x32, .u2d), (0x33, .stat)]

/-- The decoder of R75: it reads the command word only, not the operand lanes and not the state. -/
def decode (w : CmdWord) : Decoded :=
  if fieldOPC w = 0x12#8 then decodeN w
  else if fieldOPC w = 0x22#8 then decodeV w
  else
    match zCommands.lookup (fieldOPC w) with
    | some i => decodeZ w i
    | none => .illegal .unassignedOpcode

/-- Decoding from stored bytes (R55: the command word is four bytes, little-endian): what the first
four bytes decode to, and the rest. -/
def decodeBytes : List Byte → Decoded × List Byte
  | b0 :: b1 :: b2 :: b3 :: rest => (decode (cmdOfBytes [b0, b1, b2, b3]), rest)
  | short => (.illegal .truncated, short)

/-- A command word from its fields: RZ2, N, RZ1, VAR, OPC from bit 31 down, the reserved ones zero
(R70). -/
def packFields (opc : BitVec 8) (var : BitVec 2) (n : BitVec 8) : CmdWord :=
  0#8 ++ n ++ 0#6 ++ var ++ opc

/-- The command word of a well-formed command (R74). -/
def encode : Instr → CmdWord
  | .smseed => packFields 0x10 0 0
  | .smnext => packFields 0x11 0 0
  | .smgen n => packFields 0x12 0 (BitVec.ofNat 8 n)
  | .smsave => packFields 0x13 0 0
  | .smeq => packFields 0x14 0 0
  | .xseed => packFields 0x20 0 0
  | .xload => packFields 0x21 0 0
  | .xnextP => packFields 0x22 0 0
  | .xnextPP => packFields 0x22 1 0
  | .xnextSS => packFields 0x22 2 0
  | .xjump => packFields 0x23 0 0
  | .xljump => packFields 0x24 0 0
  | .xsave => packFields 0x25 0 0
  | .xeq => packFields 0x26 0 0
  | .gmin => packFields 0x30 0 0
  | .gmax => packFields 0x31 0 0
  | .u2d => packFields 0x32 0 0
  | .stat => packFields 0x33 0 0

/-- The stored bytes of a well-formed command (R55). -/
def encodeBytes (i : Instr) : List Byte := cmdBytes (encode i)

/-- A row of the opcode table, as spec/opcode_table.json gives it: a word w is the row's when
`w &&& mask = pattern`. -/
structure OpcodeRow where
  mnemonic : String
  pattern : CmdWord
  mask : CmdWord
deriving DecidableEq, Repr

/-- The row of spec/opcode_table.json that a command belongs to. -/
def Instr.row : Instr → OpcodeRow
  | .smseed => ⟨"SMSEED", 0x00000010, 0xffffffff⟩
  | .smnext => ⟨"SMNEXT", 0x00000011, 0xffffffff⟩
  | .smgen _ => ⟨"SMGEN", 0x00000012, 0xff00ffff⟩
  | .smsave => ⟨"SMSAVE", 0x00000013, 0xffffffff⟩
  | .smeq => ⟨"SMEQ", 0x00000014, 0xffffffff⟩
  | .xseed => ⟨"XSEED", 0x00000020, 0xffffffff⟩
  | .xload => ⟨"XLOAD", 0x00000021, 0xffffffff⟩
  | .xnextP => ⟨"XNEXT.P", 0x00000022, 0xffffffff⟩
  | .xnextPP => ⟨"XNEXT.PP", 0x00000122, 0xffffffff⟩
  | .xnextSS => ⟨"XNEXT.SS", 0x00000222, 0xffffffff⟩
  | .xjump => ⟨"XJUMP", 0x00000023, 0xffffffff⟩
  | .xljump => ⟨"XLJUMP", 0x00000024, 0xffffffff⟩
  | .xsave => ⟨"XSAVE", 0x00000025, 0xffffffff⟩
  | .xeq => ⟨"XEQ", 0x00000026, 0xffffffff⟩
  | .gmin => ⟨"GMIN", 0x00000030, 0xffffffff⟩
  | .gmax => ⟨"GMAX", 0x00000031, 0xffffffff⟩
  | .u2d => ⟨"U2D", 0x00000032, 0xffffffff⟩
  | .stat => ⟨"STAT", 0x00000033, 0xffffffff⟩

/-- The eighteen rows of the table. -/
def opcodeRows : List OpcodeRow :=
  [Instr.smseed.row, Instr.smnext.row, (Instr.smgen 0).row, Instr.smsave.row, Instr.smeq.row,
    Instr.xseed.row, Instr.xload.row, Instr.xnextP.row, Instr.xnextPP.row, Instr.xnextSS.row,
    Instr.xjump.row, Instr.xljump.row, Instr.xsave.row, Instr.xeq.row, Instr.gmin.row,
    Instr.gmax.row, Instr.u2d.row, Instr.stat.row]

/-- The command word that the host's `nbits` low bits of `w` stand for, the bits above them zero. -/
def tableWord (nbits w : Nat) : CmdWord := BitVec.ofNat 32 (w % 2 ^ nbits)

/-- The command that the decoder reads from a word numbered as the opcode table numbers it; the word
goes through its four stored bytes (R55). -/
def decodeTableWord (nbits w : Nat) : Option Instr :=
  (decodeBytes (cmdBytes (tableWord nbits w))).1.instr?

end Sys2Proof
end

