-- ==== Sys2Proof/Config.lean ====
section
/-! DEFINITION. What the spec leaves free. The only open values of the unit are the contents of
`S[0..3]` after a reset (spec/10_state.md R40): "each may hold any 64-bit value, the four need not be
equal or zero, and the value may differ from one reset to the next". The parameters JUMP_POLY and
LJUMP_POLY, which the spec gives defaults (R152, R153), stand with the constants in
Machine/Constants.lean. -/

namespace Sys2Proof

/-- FREE VALUE (log entry 2). The value that word `S[i]` holds after the k-th reset event. It has no
body: nothing can be proved of what it is, and a claim is true whatever it is. -/
opaque Config.resetWord (k i : Nat) : Word

/-- The four free words after the k-th reset event. -/
def Config.resetS (k : Nat) : Quad :=
  ⟨Config.resetWord k 0, Config.resetWord k 1, Config.resetWord k 2, Config.resetWord k 3⟩

end Sys2Proof
end

