-- ==== Sys2Proof/Machine/State.lean ====
section
/-! DEFINITION. The state of the machine: the unit's 321 bits (spec/10_state.md R30) and the two ports
at which it meets its host (spec/20_memory.md R50 to R54). The unit has no program counter, no memory
and no mode (R36, R41, R58, R199), so there is no field for one. -/

namespace Sys2Proof.Machine

/-- The status of a response (spec/60_exceptions.md R190). Code 3 is never produced and has no
constructor (spec/93_implementation_defined.md K4). -/
inductive Status where
  | ok           -- the command was executed as its rule says
  | errIllegal   -- the command word is illegal (R191)
  | errUninit    -- the command needs `S[0..3]` and `XV = 0` (R192)
deriving DecidableEq, Repr

/-- A response: a status and an ordered list of data words, word 0 first (R53, R54). -/
structure Response where
  status : Status
  data   : List Word
deriving DecidableEq, Repr

/-- A command: the command word and the four operand lanes, presented together (R51). -/
structure Command where
  word  : CmdWord
  lanes : Quad
deriving DecidableEq, Repr

/-- What the host can do to the unit (spec/70_reset_and_hazards.md R221: "issue a command" and
"reset"; R64: it "cannot abort a command other than by reset"). -/
inductive HostMove where
  /-- The host presents a command and lets it complete. -/
  | command (c : Command)
  /-- The host asserts reset while no command is in execution. -/
  | reset
  /-- The host presents a command and asserts reset while it is in execution: the command is
  abandoned (R221). -/
  | resetDuring (c : Command)
deriving DecidableEq, Repr

/-- Reasons for the machine to stop. There is none: "no operation can fail, throw, or enter an
undefined state from any input in its domain" (R15), an illegal word and a use of unloaded `S` are
answered and the unit goes on (R193, R194), and every command terminates (R231). -/
inductive Fault
deriving DecidableEq, Repr

/-- Reasons for a command to have no meaning in this model. -/
inductive Refusal where
  /-- Raised by an arm of `exec` whose instruction has no meaning yet; safe, since the machine stops.
  No arm raises it: every row of the opcode table is modelled. -/
  | notModelled (mnemonic : String)
deriving DecidableEq, Repr

/-- The machine. `sm`, `xs` and `xv` are the whole architectural state (R30); the other fields are the
model's own: the ports to the host and the count of reset events. -/
@[ext]
structure State where
  /-- `SM`, the SplitMix64 state register (R31). -/
  sm : Word
  /-- `S[0..3]`, the xoshiro256 state register file (R32). -/
  xs : Quad
  /-- `XV`: `S[0..3]` has been loaded since reset (R34). -/
  xv : Bool
  /-- Command port: the operand lanes `OP[0..3]` sampled with the command in execution (R51, R52);
  nothing reads them between commands. -/
  op : Quad
  /-- Command port: the host's moves that the unit has not taken yet, oldest first (R36, R59). -/
  pending : List HostMove
  /-- Response port: the responses delivered to the host so far, oldest first (R53); no rule of the
  unit reads it. -/
  responses : List Response
  /-- How many reset events have happened; it only picks the free values of `S` (Config.resetS). -/
  resets : Nat
deriving DecidableEq, Repr

/-- The machine right after reset (R40, R220): `SM` the default seed, `XV = 0`, no command in
execution, no response. `S` is unspecified and is zero here (log entry 1); the lanes are the host's
and are zero here (log entry 5). -/
def State.reset : State :=
  { sm := DEFAULT_SEED, xs := Quad.zero, xv := false, op := Quad.zero, pending := [],
    responses := [], resets := 0 }

end Sys2Proof.Machine
end

