-- ==== Sys2Proof/Machine/Ops.lean ====
section
/-! DEFINITION. The named operations over the state: responding, the one operation that answers with
an error, the register writes, accepting a command and the reset event. -/

namespace Sys2Proof.Machine

/-- The outcomes of a step of this machine. -/
abbrev Result := Host.Outcome State Fault Refusal

/-- `respond(w0, ..., wk-1)` of R7: complete the command with status OK and these data words. -/
def State.respond (s : State) (words : List Word) : State :=
  { s with responses := s.responses ++ [⟨.ok, words⟩] }

/-- TAKING AN ERROR, the unit's only synchronous exception (spec/60_exceptions.md R190, R193; `raise`
of R7): the command completes with the error status and no data words, and nothing else changes. No
state is saved, no mode changes, no handler runs, and so there is no return from it (R197). -/
def State.raise (s : State) (e : Status) : State :=
  { s with responses := s.responses ++ [⟨e, []⟩] }

/-- `SM <- v` (R31). -/
def State.writeSM (s : State) (v : Word) : State := { s with sm := v }

/-- `S <- (a, b, c, d)`: the file is written as a whole (R7, R32). -/
def State.writeS (s : State) (q : Quad) : State := { s with xs := q }

/-- `XV <- b` (R34). -/
def State.writeXV (s : State) (b : Bool) : State := { s with xv := b }

/-- Accepting the command `c`: its lanes are sampled, once (R51); `rest` is what the host will do
after it. -/
def State.accept (s : State) (c : Command) (rest : List HostMove) : State :=
  { s with op := c.lanes, pending := rest }

/-- THE RESET EVENT (R221): every state goes to the reset state of R220, with `S` free (log entry 2);
a command in execution is abandoned without a response. What the host has received it keeps (log
entry 3). -/
def State.resetUnit (s : State) (rest : List HostMove) : State :=
  { State.reset with
    xs := Config.resetS s.resets, pending := rest, responses := s.responses,
    resets := s.resets + 1 }

end Sys2Proof.Machine
end

