-- ==== Sys2Proof/Machine/Operands.lean ====
section
/-! DEFINITION. The operand forms: which lanes a command reads (spec/20_memory.md R52), the lane
reads, and how many data words its OK response has (R53). -/

namespace Sys2Proof.Machine

/-- `OP[0]`, the scalar operand (R52). -/
def State.lane0 (s : State) : Word := s.op.w0

/-- `OP[0..3]`, the four-word operand: `OP[i]` is state word i (R52). -/
def State.lanes (s : State) : Quad := s.op

/-- How many lanes a command reads, from lane 0 up (R52). -/
def lanesUsed : Instr → Nat
  | .smseed | .smeq | .xseed | .u2d => 1
  | .xload | .xeq => 4
  | .smnext | .smgen _ | .smsave | .xnextP | .xnextPP | .xnextSS | .xjump | .xljump | .xsave
  | .gmin | .gmax | .stat => 0

/-- How many data words the OK response to a command has (R53). -/
def dataWords : Instr → Nat
  | .smseed | .xseed | .xload | .xjump | .xljump => 0
  | .smnext | .smsave | .smeq | .xnextP | .xnextPP | .xnextSS | .xeq | .gmin | .gmax | .u2d
  | .stat => 1
  | .xsave => 4
  | .smgen n => n

end Sys2Proof.Machine
end

