-- ==== Sys2Proof/Machine/Flags.lean ====
section
/-! DEFINITION. The one flag, `XV` (spec/10_state.md R34): the status word it is read through, the
commands that need it, and the check they make. Arithmetic sets no flag (R15). -/

namespace Sys2Proof.Machine

/-- STATUS, a read-only view and not storage of its own: `zext_64(XV)` (R35). -/
def State.statusWord (s : State) : Word := boolWord s.xv

/-- Loading the xoshiro256 state: all four words and `XV <- 1`, together (R34, R121, R122). -/
def State.loadS (s : State) (q : Quad) : State := (s.writeS q).writeXV true

/-- The commands that need a loaded `S` (R192). -/
def needsXV : Instr → Bool
  | .xnextP | .xnextPP | .xnextSS | .xjump | .xljump | .xsave | .xeq => true
  | .smseed | .smnext | .smgen _ | .smsave | .smeq | .xseed | .xload | .gmin | .gmax | .u2d
  | .stat => false

/-- `if XV == 0: raise Uninit`, else go on to `done` (R192, R195). -/
def requireLoaded (s : State) (done : State) : Result :=
  if s.xv then .next done else .next (s.raise .errUninit)

end Sys2Proof.Machine
end

