-- ==== Sys2Proof/Machine/SplitMix.lean ====
section
/-! DEFINITION. The SplitMix64 family (spec/40_splitmix64.md): the finalizer, the step, and the
commands SMSEED, SMNEXT, SMGEN, SMSAVE, SMEQ. -/

namespace Sys2Proof.Machine

/-- The finalizer (R100): three xor-shifts with two multiplies between them. -/
def mix64 (z : Word) : Word :=
  let b := mul64 (xorShr z 30) MUL1
  let d := mul64 (xorShr b 27) MUL2
  xorShr d 31

/-- One SplitMix64 step (R101): the state after, and the output, the finalizer of the NEW state. -/
def smstep (s : Word) : Word × Word :=
  let s' := add64 s GAMMA
  (s', mix64 s')

/-- `n` steps: the state after them, and their outputs in order (the loop of R104). -/
def smgenLoop : Nat → Word → Word × List Word
  | 0, s => (s, [])
  | n + 1, s =>
    let r := smgenLoop n (smstep s).1
    (r.1, (smstep s).2 :: r.2)

/-- SMSEED (R102): the seed is stored verbatim. -/
def execSmseed (s : State) : Result :=
  .next ((s.writeSM s.lane0).respond [])

/-- SMNEXT (R103). -/
def execSmnext (s : State) : Result :=
  .next ((s.writeSM (smstep s.sm).1).respond [(smstep s.sm).2])

/-- SMGEN (R104). -/
def execSmgen (n : Nat) (s : State) : Result :=
  .next ((s.writeSM (smgenLoop n s.sm).1).respond (smgenLoop n s.sm).2)

/-- SMSAVE (R105). -/
def execSmsave (s : State) : Result :=
  .next (s.respond [s.sm])

/-- SMEQ (R106): all 64 bits are compared (R14). -/
def execSmeq (s : State) : Result :=
  .next (s.respond [boolWord (s.sm == s.lane0)])

end Sys2Proof.Machine
end

