-- ==== Sys2Proof/Machine/Xoshiro.lean ====
section
/-! DEFINITION. The xoshiro256 family except the jumps (spec/41_xoshiro256.md): the transition, the
three output functions, and the commands XSEED, XLOAD, XNEXT, XSAVE, XEQ. -/

namespace Sys2Proof.Machine

/-- `trans` (R123), the six in-place updates in the order the rule gives them, each seeing the ones
before it. -/
def transition (s : Quad) : Quad :=
  let t := shl s.w1 17
  let u2 := s.w2 ^^^ s.w0
  let u3 := s.w3 ^^^ s.w1
  let n1 := s.w1 ^^^ u2
  let n0 := s.w0 ^^^ u3
  let n2 := u2 ^^^ t
  let n3 := rotl u3 45
  ⟨n0, n1, n2, n3⟩

/-- Plus: `s0 + s3` (R124). -/
def outP (s : Quad) : Word := add64 s.w0 s.w3

/-- PlusPlus: `rotl(s0 + s3, 23) + s0` (R124). -/
def outPP (s : Quad) : Word := add64 (rotl (add64 s.w0 s.w3) 23) s.w0

/-- StarStar: `rotl(s1 * 5, 7) * 9` (R124). -/
def outSS (s : Quad) : Word := mul64 (rotl (mul64 s.w1 5) 7) 9

/-- The output function that a variant selects (R124). -/
def outOf : Variant → Quad → Word
  | .plus => outP
  | .plusPlus => outPP
  | .starStar => outSS

/-- The four words that a scalar seed expands to (R121): four SplitMix64 steps on the private scratch
word `T` of R38, whose last value is discarded. -/
def seedExpand (seed : Word) : Quad :=
  let r1 := smstep seed
  let r2 := smstep r1.1
  let r3 := smstep r2.1
  let r4 := smstep r3.1
  ⟨r1.2, r2.2, r3.2, r4.2⟩

/-- What XNEXT of a variant does to a loaded unit (R125): the output is computed from the state BEFORE
the step. -/
def State.xnext (s : State) (v : Variant) : State :=
  (s.writeS (transition s.xs)).respond [outOf v s.xs]

/-- XSEED (R121): `SM` is neither read nor written. -/
def execXseed (s : State) : Result :=
  .next ((s.loadS (seedExpand s.lane0)).respond [])

/-- XLOAD (R122): the words verbatim, unchecked. -/
def execXload (s : State) : Result :=
  .next ((s.loadS s.lanes).respond [])

/-- XNEXT.P (R125). -/
def execXnextP (s : State) : Result := requireLoaded s (s.xnext .plus)

/-- XNEXT.PP (R125). -/
def execXnextPP (s : State) : Result := requireLoaded s (s.xnext .plusPlus)

/-- XNEXT.SS (R125). -/
def execXnextSS (s : State) : Result := requireLoaded s (s.xnext .starStar)

/-- XSAVE (R127). -/
def execXsave (s : State) : Result := requireLoaded s (s.respond s.xs.toList)

/-- XEQ (R128): position by position, all 64 bits of each word. -/
def execXeq (s : State) : Result := requireLoaded s (s.respond [boolWord (s.xs == s.lanes)])

end Sys2Proof.Machine
end

