-- ==== Sys2Proof/Machine/Jump.lean ====
section
/-! DEFINITION. The jump engine (spec/42_jump.md): `jumpBy` and the commands XJUMP and XLJUMP. -/

namespace Sys2Proof.Machine

/-- The 64 bits of a polynomial word, bit 0 first. -/
def wordBits (w : Word) : List Bool := (List.range 64).map fun b => w.getLsbD b

/-- The 256 bits of a polynomial: words in index order, bits of each from bit 0 up (R150 (b), (c)). -/
def polyBits (p : Quad) : List Bool :=
  wordBits p.w0 ++ wordBits p.w1 ++ wordBits p.w2 ++ wordBits p.w3

/-- The loop of R150 over the remaining polynomial bits, with the accumulators `acc` and the cursor
`cur`: the bit is tested before the step (a), and the step happens whatever the bit (d). (Irreducible,
so that comparing two states never unrolls the 256 steps; its equations and the kernel still do.) -/
@[irreducible] def jumpLoop : List Bool → Quad → Quad → Quad
  | [], acc, _ => acc
  | b :: bits, acc, cur => jumpLoop bits (if b then acc.xor cur else acc) (transition cur)

/-- `jumpBy(P, s)` (R150): the accumulators start at zero; the final cursor is discarded. -/
def jumpBy (p s : Quad) : Quad := jumpLoop (polyBits p) Quad.zero s

/-- XJUMP (R154). -/
def execXjump (s : State) : Result :=
  requireLoaded s ((s.writeS (jumpBy JUMP_POLY s.xs)).respond [])

/-- XLJUMP (R155). -/
def execXljump (s : State) : Result :=
  requireLoaded s ((s.writeS (jumpBy LJUMP_POLY s.xs)).respond [])

end Sys2Proof.Machine
end

