-- ==== Sys2Proof/Machine/Utility.lean ====
section
/-! DEFINITION. The utility family (spec/43_utility.md): GMIN, GMAX, the bit-to-double conversion with
U2D, and STAT. None of them changes `SM`, `S` or `XV`. -/

namespace Sys2Proof.Machine

/-- `u2d` (R172): the binary64 pattern of `(x >> 11) * 2^-53`. `k` is the index of the highest set bit
of `v`; the sign bit is 0. -/
def u2dBits (x : Word) : Word :=
  let v := shr x 11
  if v = 0 then 0
  else
    let k := v.toNat.log2
    let e := 970 + k
    let f := shl v (52 - k)
    0#1 ++ BitVec.ofNat 11 e ++ f.extractLsb' 0 52

/-- GMIN (R170). -/
def execGmin (s : State) : Result := .next (s.respond [0x0000000000000000])

/-- GMAX (R171). -/
def execGmax (s : State) : Result := .next (s.respond [0xffffffffffffffff])

/-- U2D (R173). -/
def execU2d (s : State) : Result := .next (s.respond [u2dBits s.lane0])

/-- STAT (R174). -/
def execStat (s : State) : Result := .next (s.respond [s.statusWord])

end Sys2Proof.Machine
end

