-- ==== Sys2Proof/Machine/Dispatch.lean ====
section
/-! DEFINITION. One arm per constructor of Instr: each command's meaning. -/

namespace Sys2Proof.Machine

def exec (i : Instr) (s : State) : Host.Outcome State Fault Refusal :=
  match i with
  -- SplitMix64
  | .smseed => Sys2Proof.Machine.execSmseed s
  | .smnext => Sys2Proof.Machine.execSmnext s
  | .smgen n => Sys2Proof.Machine.execSmgen n s
  | .smsave => Sys2Proof.Machine.execSmsave s
  | .smeq => Sys2Proof.Machine.execSmeq s
  -- xoshiro256
  | .xseed => Sys2Proof.Machine.execXseed s
  | .xload => Sys2Proof.Machine.execXload s
  | .xnextP => Sys2Proof.Machine.execXnextP s
  | .xnextPP => Sys2Proof.Machine.execXnextPP s
  | .xnextSS => Sys2Proof.Machine.execXnextSS s
  -- jumps
  | .xjump => Sys2Proof.Machine.execXjump s
  | .xljump => Sys2Proof.Machine.execXljump s
  | .xsave => Sys2Proof.Machine.execXsave s
  | .xeq => Sys2Proof.Machine.execXeq s
  -- utility
  | .gmin => Sys2Proof.Machine.execGmin s
  | .gmax => Sys2Proof.Machine.execGmax s
  | .u2d => Sys2Proof.Machine.execU2d s
  | .stat => Sys2Proof.Machine.execStat s

end Sys2Proof.Machine
end

