-- ==== Sys2Proof/Machine/Fetch.lean ====
section
/-! DEFINITION. Running one accepted command word: decoding comes first (spec/60_exceptions.md R195),
and an illegal word is answered and has no effect (R191, R193). -/

namespace Sys2Proof.Machine

/-- What the unit does with the word of a command it has accepted. -/
def runWord (w : CmdWord) (s : State) : Result :=
  match decode w with
  | .instr i => exec i s
  | .illegal _ => .next (s.raise .errIllegal)

end Sys2Proof.Machine
end

