-- ==== Sys2Proof/Machine/Step.lean ====
section
/-! DEFINITION. One step: the unit takes the host's next move. A command is executed completely before
the next is accepted (spec/20_memory.md R59); nothing happens without a command or a reset
(spec/60_exceptions.md R196), so with no move pending the unit idles and keeps its state (R205). -/

namespace Sys2Proof.Machine

/-- One step of the machine. -/
def step (s : State) : Host.Outcome State Fault Refusal :=
  match s.pending with
  | [] => .next s
  | .command c :: rest => runWord c.word (s.accept c rest)
  | .reset :: rest => .next (s.resetUnit rest)
  | .resetDuring _ :: rest => .next (s.resetUnit rest)

/-- `s` with a command of that word presented next on the command port; the lanes carry what they
carry already (log entry 5). -/
def State.withFetchWord (s : State) (nbits w : Nat) : State :=
  { s with pending := .command ⟨tableWord nbits w, s.op⟩ :: s.pending }

end Sys2Proof.Machine
end

