-- ==== Sys2Proof/Machine/Assembler.lean ====
section
/-! DEFINITION. The assembler syntax and the pseudo-commands (spec/30_encoding.md R80, R81), and a
host that runs a listing on one unit. Names belong to the host, not to the unit (R80), so nothing here
is state of the unit. -/

namespace Sys2Proof.Machine

/-- A name of the host, as its characters. -/
abbrev HostName := List Char

/-- An operand: a 64-bit literal, or a name bound earlier (R80). -/
inductive Operand where
  | literal (v : Word)
  | name (x : HostName)
deriving DecidableEq, Repr

/-- What stands left of `<-`: nothing, one name, or four (R80). -/
inductive Binding where
  | nothing
  | one (x : HostName)
  | four (a b c d : HostName)
deriving DecidableEq, Repr

/-- What a line commands: a command of the unit, or a pseudo-command, which has no opcode of its own
(R81). A bare SMSEED is `core .smseed` with no operand. -/
inductive AsmOp where
  | core (i : Instr)
  | smload
  | xrestore
  | xnextd (v : Variant)
  | xseedvia
deriving DecidableEq, Repr

/-- One line of a listing. -/
structure AsmLine where
  bind : Binding
  op   : AsmOp
  args : List Operand
deriving DecidableEq, Repr

/-- A line whose command is a command of the unit. -/
structure CoreLine where
  bind : Binding
  cmd  : Instr
  args : List Operand
deriving DecidableEq, Repr

/-- The expansions of R81. The names `t`, `a`, `b`, `c`, `d` are the rule's own. DESIGN CHOICE (log entry
16): where a pseudo-command is several commands, what stands left of `<-` is bound by the last. -/
def AsmLine.expand (l : AsmLine) : List CoreLine :=
  match l.op, l.args with
  | .core .smseed, [] => [⟨l.bind, .smseed, [.literal DEFAULT_SEED]⟩]
  | .core i, args => [⟨l.bind, i, args⟩]
  | .smload, args => [⟨l.bind, .smseed, args⟩]
  | .xrestore, args => [⟨l.bind, .xload, args⟩]
  | .xnextd v, args => [⟨.one ['t'], v.xnext, args⟩, ⟨l.bind, .u2d, [.name ['t']]⟩]
  | .xseedvia, args =>
    [⟨.nothing, .smseed, args⟩, ⟨.four ['a'] ['b'] ['c'] ['d'], .smgen 4, []⟩,
      ⟨l.bind, .xload, [.name ['a'], .name ['b'], .name ['c'], .name ['d']]⟩]

/-- What a name of the host stands for: one data word, or the list that `list <- SMGEN n` binds. -/
inductive HostValue where
  | word (w : Word)
  | words (ws : List Word)
deriving DecidableEq, Repr

/-- The host's names, newest first. -/
abbrev HostEnv := List (HostName × HostValue)

/-- The word an operand stands for; a name that is unbound or stands for a list has none. -/
def Operand.value (env : HostEnv) : Operand → Option Word
  | .literal v => some v
  | .name x =>
    match env.lookup x with
    | some (.word w) => some w
    | _ => none

/-- Operands to lanes in order, first operand to `OP[0]`; a lane with no operand is 0 (R80). -/
def lanesOf (ws : List Word) : Quad := ⟨ws.getD 0 0, ws.getD 1 0, ws.getD 2 0, ws.getD 3 0⟩

/-- The command that a core line issues: its word and lanes (R80). A line with the wrong number of
operands, an unbound name, or `SMGEN n` with n above 255 is no line (log entry 16). -/
def CoreLine.assemble (env : HostEnv) (l : CoreLine) : Option Command :=
  if l.cmd.wf && l.args.length == lanesUsed l.cmd then
    (l.args.mapM (Operand.value env)).map fun ws => ⟨encode l.cmd, lanesOf ws⟩
  else none

/-- What a line binds from the data words of its response (R80). DESIGN CHOICE (log entry 16), where the
spec is silent: a response with fewer data words than the binding asks binds none of its names, and one
with more binds the first words; of two equal names in `(a, b, c, d)` the left one is read. -/
def Binding.bindWords (b : Binding) (cmd : Instr) (ws : List Word) (env : HostEnv) : HostEnv :=
  match b, cmd, ws with
  | .one x, .smgen _, ws => (x, .words ws) :: env
  | .one x, _, w :: _ => (x, .word w) :: env
  | .four a b c d, _, w0 :: w1 :: w2 :: w3 :: _ =>
    (a, .word w0) :: (b, .word w1) :: (c, .word w2) :: (d, .word w3) :: env
  | _, _, _ => env

/-- Issue one core line: present the command, let the unit take it, bind from its response; `none` where
the line does not assemble, and then nothing is presented. DESIGN CHOICE (log entry 16), where the spec is
silent: a response with an error binds nothing, and the listing's command is the only move pending (other
moves of the host are dropped). -/
def CoreLine.issue (l : CoreLine) (env : HostEnv) (s : State) : Option (HostEnv × State) :=
  match l.assemble env with
  | none => none
  | some c =>
    match step { s with pending := [.command c] } with
    | .next t =>
      match t.responses.getLast? with
      | some r =>
        match r.status with
        | .ok => some (l.bind.bindWords l.cmd r.data env, t)
        | _ => some (env, t)
      | none => some (env, t)
    | .fault _ => none
    | .refused _ => none

/-- Issue core lines in order. DESIGN CHOICE (log entry 16), where the spec is silent: if a line cannot be
issued (its operand is a name that is unbound, as `t` is in XNEXTD after XNEXT was answered ERR_UNINIT),
the whole listing has no result, and the model does not say what the lines before it left. -/
def issueLines : List CoreLine → HostEnv → State → Option (HostEnv × State)
  | [], env, s => some (env, s)
  | l :: ls, env, s =>
    match l.issue env s with
    | some (env', s') => issueLines ls env' s'
    | none => none

/-- Run a listing: each line expanded, then issued; `none` where one of them cannot be issued (the
model's choice, log entry 16). -/
def runListing (ls : List AsmLine) (env : HostEnv) (s : State) : Option (HostEnv × State) :=
  issueLines (ls.flatMap AsmLine.expand) env s

/-! ### The text of a line -/

/-- The tokens of a line. -/
inductive Token where
  | word (cs : List Char)   -- a mnemonic, a name or a number
  | comma
  | lparen
  | rparen
  | arrow                   -- `<-`
  | bad                     -- a character that belongs to no token
deriving DecidableEq, Repr

/-- A character of a mnemonic, a name or a number. -/
def isWordChar (c : Char) : Bool := c.isAlphanum || c == '.' || c == '_'

/-- The word read so far (in reverse), if any, as a token. -/
def flushWord : List Char → List Token
  | [] => []
  | c :: cs => [.word (c :: cs).reverse]

/-- The tokens of a line; `acc` is the word being read, in reverse. `#` starts a comment (R80). -/
def tokenize : List Char → List Char → List Token
  | acc, [] => flushWord acc
  | acc, '#' :: _ => flushWord acc
  | acc, '<' :: '-' :: cs => flushWord acc ++ .arrow :: tokenize [] cs
  | acc, c :: cs =>
    if isWordChar c then tokenize (c :: acc) cs
    else if c == ' ' || c == '\t' then flushWord acc ++ tokenize [] cs
    else if c == ',' then flushWord acc ++ .comma :: tokenize [] cs
    else if c == '(' then flushWord acc ++ .lparen :: tokenize [] cs
    else if c == ')' then flushWord acc ++ .rparen :: tokenize [] cs
    else flushWord acc ++ .bad :: tokenize [] cs

/-- The value of a digit in a base up to sixteen. -/
def digitValue (base : Nat) (c : Char) : Option Nat :=
  let v :=
    if c.isDigit then c.toNat - '0'.toNat
    else if 'a' ≤ c ∧ c ≤ 'f' then c.toNat - 'a'.toNat + 10
    else if 'A' ≤ c ∧ c ≤ 'F' then c.toNat - 'A'.toNat + 10
    else base
  if v < base then some v else none

/-- Digits, most significant first, after the value read so far. -/
def digitsValue (base : Nat) : Nat → List Char → Option Nat
  | n, [] => some n
  | n, c :: cs =>
    match digitValue base c with
    | some d => digitsValue base (n * base + d) cs
    | none => none

/-- A literal: decimal, or hexadecimal with `0x` (R80). -/
def numberOf : List Char → Option Nat
  | '0' :: 'x' :: d :: ds => digitsValue 16 0 (d :: ds)
  | d :: ds => digitsValue 10 0 (d :: ds)
  | [] => none

/-- A name, on either side of `<-`: a word that starts with a letter. DESIGN CHOICE (log entry 16): the
spec does not say what a name is; with this, what can be bound is what an operand can read, and no name
is a literal. -/
def nameOf (cs : List Char) : Option HostName :=
  match cs with
  | [] => none
  | c :: _ => if c.isAlpha then some cs else none

/-- An operand: a name, or a literal below 2^64. -/
def operandOf (cs : List Char) : Option Operand :=
  match nameOf cs with
  | some x => some (.name x)
  | none =>
    match numberOf cs with
    | some n => if n < 2 ^ 64 then some (.literal (BitVec.ofNat 64 n)) else none
    | none => none

/-- Operands separated by commas. -/
def operandList : List Token → Option (List Operand)
  | [] => some []
  | [.word w] => (operandOf w).map fun o => [o]
  | .word w :: .comma :: .word w' :: ts =>
    match operandOf w, operandList (.word w' :: ts) with
    | some o, some os => some (o :: os)
    | _, _ => none
  | _ => none

/-- The mnemonics that stand alone, in capitals (R80, R81); SMGEN, whose count is part of the command
word, is apart. There is no bare XNEXT (R81). -/
def mnemonics : List (List Char × AsmOp) :=
  [("SMSEED".toList, .core .smseed), ("SMNEXT".toList, .core .smnext),
    ("SMSAVE".toList, .core .smsave), ("SMEQ".toList, .core .smeq),
    ("XSEED".toList, .core .xseed), ("XLOAD".toList, .core .xload),
    ("XNEXT.P".toList, .core .xnextP), ("XNEXT.PP".toList, .core .xnextPP),
    ("XNEXT.SS".toList, .core .xnextSS), ("XJUMP".toList, .core .xjump),
    ("XLJUMP".toList, .core .xljump), ("XSAVE".toList, .core .xsave),
    ("XEQ".toList, .core .xeq), ("GMIN".toList, .core .gmin), ("GMAX".toList, .core .gmax),
    ("U2D".toList, .core .u2d), ("STAT".toList, .core .stat), ("SMLOAD".toList, .smload),
    ("XRESTORE".toList, .xrestore), ("XNEXTD.P".toList, .xnextd .plus),
    ("XNEXTD.PP".toList, .xnextd .plusPlus), ("XNEXTD.SS".toList, .xnextd .starStar),
    ("XSEEDVIA".toList, .xseedvia)]

/-- The part of a line right of `<-`: a mnemonic and its operands. -/
def commandOf (bind : Binding) : List Token → Option AsmLine
  | .word m :: ts =>
    if m = "SMGEN".toList then
      match ts with
      | [.word d] =>
        match numberOf d with
        | some n => if n < 256 then some ⟨bind, .core (.smgen n), []⟩ else none
        | none => none
      | _ => none
    else
      match mnemonics.lookup m, operandList ts with
      | some op, some args => some ⟨bind, op, args⟩
      | _, _ => none
  | _ => none

/-- A line of a listing from its text (R80); `none` where the text is no line. Left of `<-` stand one
name or four in parentheses; that each is a name as operands read it is the model's choice (log entry
16). -/
def parseLine (text : List Char) : Option AsmLine :=
  match tokenize [] text with
  | .word x :: .arrow :: ts =>
    match nameOf x with
    | some x => commandOf (.one x) ts
    | none => none
  | .lparen :: .word a :: .comma :: .word b :: .comma :: .word c :: .comma :: .word d :: .rparen
      :: .arrow :: ts =>
    match nameOf a, nameOf b, nameOf c, nameOf d with
    | some a, some b, some c, some d => commandOf (.four a b c d) ts
    | _, _, _, _ => none
  | ts => commandOf .nothing ts

end Sys2Proof.Machine
end

