-- ==== Sys2Proof/Machine/Double.lean ====
section
/-! DEFINITION. What a binary64 pattern means as a number (spec/43_utility.md R172,
spec/93_implementation_defined.md K8), so that claims about U2D can be stated about its value. -/

namespace Sys2Proof.Machine

/-- The sign bit, bit 63. -/
def doubleSign (w : Word) : Bool := w.getLsbD 63

/-- The biased exponent, bits 62:52. -/
def doubleExponent (w : Word) : Nat := (w.extractLsb' 52 11).toNat

/-- The fraction, bits 51:0. -/
def doubleFraction (w : Word) : Nat := (w.extractLsb' 0 52).toNat

/-- The value of a non-negative binary64 pattern (K8): `(1 + f·2^-52)·2^(e−1023)` for a normal number
(e in 1..2046), 0 for the all-zero pattern. K8 gives no other pattern a value and neither does this. -/
def doubleValue (w : Word) : Option ℚ :=
  if w = 0 then some 0
  else if doubleSign w = false ∧ 1 ≤ doubleExponent w ∧ doubleExponent w ≤ 2046 then
    some ((1 + (doubleFraction w : ℚ) / 2 ^ 52) * (2 : ℚ) ^ ((doubleExponent w : ℤ) - 1023))
  else none

end Sys2Proof.Machine
end

