-- ==== Sys2Proof/Machine/Port.lean ====
section
/-! DEFINITION. The response port as beats (spec/20_memory.md R63, informative: "one possible
realisation", which no other rule depends on). -/

namespace Sys2Proof.Machine

/-- The 2-bit code of a status (spec/60_exceptions.md R190). -/
def Status.code : Status → BitVec 2
  | .ok => 0
  | .errIllegal => 1
  | .errUninit => 2

/-- One beat of a response: `rsp_status`, `rsp_data` when `rsp_has_data` is 1, `rsp_last` (R63). -/
structure Beat where
  status : BitVec 2
  data   : Option Word
  last   : Bool
deriving DecidableEq, Repr

/-- The beats that carry the data words, the last of them marked. -/
def dataBeats (code : BitVec 2) : List Word → List Beat
  | [] => []
  | [w] => [⟨code, some w, true⟩]
  | w :: ws => ⟨code, some w, false⟩ :: dataBeats code ws

/-- A response as beats (R63): k = 0 gives one beat with no data; k ≥ 1 gives k beats, word 0 first. -/
def Response.beats (r : Response) : List Beat :=
  match r.data with
  | [] => [⟨r.status.code, none, true⟩]
  | ws => dataBeats r.status.code ws

end Sys2Proof.Machine
end

