-- ==== Sys2Proof/Safety.lean ====
section
/-! DEFINITION. The terms that claims about the machine use: what an observer sees, which commands
read and write what, and what a well-formed run keeps. -/

namespace Sys2Proof.Machine

/-- The state `s` with one more response delivered. -/
def State.respondWith (s : State) (r : Response) : State :=
  { s with responses := s.responses ++ [r] }

/-- The commands that set `XV` (R34). -/
def loadsS : Instr → Bool
  | .xseed | .xload => true
  | .smseed | .smnext | .smgen _ | .smsave | .smeq | .xnextP | .xnextPP | .xnextSS | .xjump
  | .xljump | .xsave | .xeq | .gmin | .gmax | .u2d | .stat => false

/-- The commands that change no state (R62). -/
def isReader : Instr → Bool
  | .smsave | .smeq | .xsave | .xeq | .stat | .gmin | .gmax | .u2d => true
  | .smseed | .smnext | .smgen _ | .xseed | .xload | .xnextP | .xnextPP | .xnextSS | .xjump
  | .xljump => false

/-- The commands that may write `S` (R32). -/
def writesS : Instr → Bool
  | .xseed | .xload | .xnextP | .xnextPP | .xnextSS | .xjump | .xljump => true
  | .smseed | .smnext | .smgen _ | .smsave | .smeq | .xsave | .xeq | .gmin | .gmax | .u2d
  | .stat => false

/-- The commands that may write `SM` (R31). -/
def writesSM : Instr → Bool
  | .smseed | .smnext | .smgen _ => true
  | .smsave | .smeq | .xseed | .xload | .xnextP | .xnextPP | .xnextSS | .xjump | .xljump
  | .xsave | .xeq | .gmin | .gmax | .u2d | .stat => false

/-- The commands whose OK response carries data and which change state (R62). -/
def isDrawing : Instr → Bool
  | .smnext | .smgen _ | .xnextP | .xnextPP | .xnextSS => true
  | .smseed | .smsave | .smeq | .xseed | .xload | .xjump | .xljump | .xsave | .xeq | .gmin | .gmax
  | .u2d | .stat => false

/-- The architectural state of R30 is the same in both. -/
def sameUnit (s t : State) : Prop := s.sm = t.sm ∧ s.xs = t.xs ∧ s.xv = t.xv

/-- The lanes a command reads agree in `a` and `b` (R52). -/
def sameLanesRead (i : Instr) (a b : Quad) : Prop :=
  a.toList.take (lanesUsed i) = b.toList.take (lanesUsed i)

/-- A response of the form R53 gives every response: an error carries no data words, an OK response at
most 255. -/
def Response.wellShaped (r : Response) : Bool :=
  match r.status with
  | .ok => decide (r.data.length ≤ 255)
  | .errIllegal | .errUninit => r.data.isEmpty

/-- THE INVARIANT of the response port: every response delivered has the form R53 gives it. -/
def State.Inv (s : State) : Prop := ∀ r ∈ s.responses, r.wellShaped = true

/-- Two units that no sequence of commands can tell apart (R16, R40): the same `SM` and `XV`, the same
`S` where it is loaded, and the same commands to come. -/
def Indistinct (s t : State) : Prop :=
  s.sm = t.sm ∧ s.xv = t.xv ∧ (s.xv = true → s.xs = t.xs) ∧ s.pending = t.pending

/-- `run k s` answers a state whose responses are those of `s` followed by `rs`. -/
def Responds (k : Nat) (s : State) (rs : List Response) : Prop :=
  ∃ t, Sys2Proof.core.run k s = .next t ∧ t.responses = s.responses ++ rs

/-- The status with which the unit answers a command word while `XV` is `xv`: the priority of R195. -/
def statusOf (xv : Bool) (w : CmdWord) : Status :=
  match decode w with
  | .illegal _ => .errIllegal
  | .instr i => if needsXV i && !xv then .errUninit else .ok

/-- The move is a command that the host lets complete. -/
def HostMove.isCommand : HostMove → Bool
  | .command _ => true
  | .reset | .resetDuring _ => false

/-- `transition` applied k times: the state that k successive XNEXT commands leave (R125, R151). -/
def stepsOn (k : Nat) (q : Quad) : Quad := transition^[k] q

/-- The commands of a list executed one after the other, each to its end, on the lanes `s` holds
(R59). -/
def execList : List Instr → State → Result
  | [], s => .next s
  | i :: is, s =>
    match exec i s with
    | .next t => execList is t
    | .fault r => .fault r
    | .refused r => .refused r

end Sys2Proof.Machine
end

