-- ==== Sys2Proof/Certificates/Slice0/Obligations.lean ====
section
/-! DEFINITION. The statements for the provers. Each one's docstring names the rule of spec/ that it
formalises. `exec i s = .next t` says that the instruction completes and what it leaves, all of `t`:
a field that the record update does not name is unchanged. -/

open Sys2Proof Sys2Proof.Machine

/-! ### Encoding -/

/-- R70 to R75: decoding an encoded well-formed command gives it back, from the word and from its four
stored bytes, whatever bytes follow. -/
def Obligations.DecodeInvertsEncode : Prop :=
  ∀ i : Instr, i.WellFormed →
    decode (encode i) = .instr i ∧
    ∀ rest : List Byte, decodeBytes (encodeBytes i ++ rest) = (.instr i, rest)

/-- R70 to R75, the other direction: a legal word is the word of the command it decodes to, and that
command is well-formed; so no bit of a legal word is dropped. -/
def Obligations.EncodeInvertsDecode : Prop :=
  ∀ (w : CmdWord) (i : Instr), decode w = .instr i → i.WellFormed ∧ encode i = w

/-- R74: the words that the opcode map writes out decode to the commands it names. -/
def Obligations.OpcodeMapWordsDecode : Prop :=
  decode 0x00000010 = .instr .smseed ∧ decode 0x00000011 = .instr .smnext ∧
  decode 0x00040012 = .instr (.smgen 4) ∧ decode 0x00ff0012 = .instr (.smgen 255) ∧
  decode 0x00000013 = .instr .smsave ∧ decode 0x00000014 = .instr .smeq ∧
  decode 0x00000020 = .instr .xseed ∧ decode 0x00000021 = .instr .xload ∧
  decode 0x00000022 = .instr .xnextP ∧ decode 0x00000122 = .instr .xnextPP ∧
  decode 0x00000222 = .instr .xnextSS ∧ decode 0x00000023 = .instr .xjump ∧
  decode 0x00000024 = .instr .xljump ∧ decode 0x00000025 = .instr .xsave ∧
  decode 0x00000026 = .instr .xeq ∧ decode 0x00000030 = .instr .gmin ∧
  decode 0x00000031 = .instr .gmax ∧ decode 0x00000032 = .instr .u2d ∧
  decode 0x00000033 = .instr .stat

/-- R76: a word is illegal exactly when its opcode is unassigned, a bit its format requires to be zero
is one, or it is XNEXT with VAR = 3; exactly 273 words are legal; the all-zeros and the all-ones word
are illegal; and an illegal word is answered with ERR_ILLEGAL, no data and no change of state. -/
def Obligations.IllegalWordsAreExactlyThese : Prop :=
  (∀ w : CmdWord, (decode w).isLegal = false ↔
    (w.extractLsb' 0 8 ∉ [0x10#8, 0x11, 0x12, 0x13, 0x14, 0x20, 0x21, 0x22, 0x23, 0x24, 0x25, 0x26,
        0x30, 0x31, 0x32, 0x33]) ∨
    (w.extractLsb' 0 8 = 0x12 ∧ (w.extractLsb' 24 8 ≠ 0 ∨ w.extractLsb' 8 8 ≠ 0)) ∨
    (w.extractLsb' 0 8 = 0x22 ∧ w.extractLsb' 10 22 ≠ 0) ∨
    (w.extractLsb' 0 8 ≠ 0x12 ∧ w.extractLsb' 0 8 ≠ 0x22 ∧ w.extractLsb' 8 24 ≠ 0) ∨
    (w.extractLsb' 0 8 = 0x22 ∧ w.extractLsb' 8 2 = 3)) ∧
  (∃ l : List CmdWord, l.Nodup ∧ l.length = 273 ∧ ∀ w, (decode w).isLegal = true ↔ w ∈ l) ∧
  (decode 0x00000000).isLegal = false ∧ (decode 0xffffffff).isLegal = false ∧
  ∀ (s : State) (c : Command) (rest : List HostMove), s.pending = .command c :: rest →
    (decode c.word).isLegal = false →
    step s = .next { s with
      pending := rest, op := c.lanes, responses := s.responses ++ [⟨.errIllegal, []⟩] }

/-- R74 and opcode_table.json: a word is legal exactly when it matches a row's mask and pattern, it
matches no two rows, and the command it decodes to is that row's. -/
def Obligations.OpcodeRowsPartitionLegalWords : Prop :=
  ∀ w : CmdWord,
    ((decode w).isLegal = true ↔ ∃ r ∈ opcodeRows, w &&& r.mask = r.pattern) ∧
    (∀ r ∈ opcodeRows, ∀ r' ∈ opcodeRows, w &&& r.mask = r.pattern → w &&& r'.mask = r'.pattern →
      r = r') ∧
    ∀ i, decode w = .instr i → i.row ∈ opcodeRows ∧ w &&& i.row.mask = i.row.pattern

/-! ### Arithmetic -/

/-- R8 to R12: add and multiply wrap modulo 2^64, exclusive OR and OR act bit by bit, shifts discard
the bits past the end and bring in zeros. -/
def Obligations.ArithmeticWraps : Prop :=
  ∀ (a b : Word),
    (add64 a b).toNat = (a.toNat + b.toNat) % 2 ^ 64 ∧
    (mul64 a b).toNat = (a.toNat * b.toNat) % 2 ^ 64 ∧
    (∀ i < 64, (a ^^^ b).getLsbD i = (a.getLsbD i ^^ b.getLsbD i) ∧
      (a ||| b).getLsbD i = (a.getLsbD i || b.getLsbD i)) ∧
    ∀ n ≤ 63, (shl a n).toNat = (a.toNat * 2 ^ n) % 2 ^ 64 ∧ (shr a n).toNat = a.toNat / 2 ^ n

/-- R13: rotating left by s in [1, 63] is the rule's formula, and moves bit i to bit (i + s) mod 64. -/
def Obligations.RotlMovesEachBit : Prop :=
  ∀ (x : Word) (n : Nat), 1 ≤ n → n ≤ 63 →
    rotl x n = shl x n ||| shr x (64 - n) ∧
    ∀ i < 64, (rotl x n).getLsbD ((i + n) % 64) = x.getLsbD i

/-! ### SplitMix64 -/

/-- R100: `mix64` is the five steps of the rule, a bijection on words, 0 at 0; and the rule's worked
example with its intermediate values. -/
def Obligations.MixIsTheRulesBijection : Prop :=
  (∀ z : Word, mix64 z =
    let a := z ^^^ (z >>> 30)
    let b := a * 0xbf58476d1ce4e5b9
    let c := b ^^^ (b >>> 27)
    let d := c * 0x94d049bb133111eb
    d ^^^ (d >>> 31)) ∧
  Function.Bijective mix64 ∧ mix64 0 = 0 ∧
  xorShr 0x9e3779b97f4a7c15 30 = 0x9e3779bb07979af0 ∧
  mul64 0x9e3779bb07979af0 0xbf58476d1ce4e5b9 = 0x6f68261b57e7a770 ∧
  xorShr 0x6f68261b57e7a770 27 = 0x6f682616bae3641a ∧
  mul64 0x6f682616bae3641a 0x94d049bb133111eb = 0xe220a838bf5c9dde ∧
  mix64 0x9e3779b97f4a7c15 = 0xe220a8397b1dcdaf

/-- R101: one step adds GAMMA and finalizes the NEW state; after k steps the state is `s + k * GAMMA`
and the k-th output is the finalizer of it; the state visits all 2^64 words before it repeats, and so do
the outputs. -/
def Obligations.StepVisitsEveryWord : Prop :=
  (∀ s : Word, smstep s = (s + 0x9e3779b97f4a7c15, mix64 (s + 0x9e3779b97f4a7c15))) ∧
  (∀ (s : Word) (k : Nat),
    (fun x => (smstep x).1)^[k] s = s + BitVec.ofNat 64 k * GAMMA ∧
    (smstep ((fun x => (smstep x).1)^[k] s)).2 = mix64 (s + BitVec.ofNat 64 (k + 1) * GAMMA)) ∧
  (∀ (s v : Word), ∃ k < 2 ^ 64, (fun x => (smstep x).1)^[k] s = v) ∧
  (∀ (s : Word) (j k : Nat), j < 2 ^ 64 → k < 2 ^ 64 →
    (fun x => (smstep x).1)^[j] s = (fun x => (smstep x).1)^[k] s → j = k) ∧
  (∀ (s v : Word), ∃ k < 2 ^ 64, (smstep ((fun x => (smstep x).1)^[k] s)).2 = v) ∧
  ∀ (s : Word) (j k : Nat), j < 2 ^ 64 → k < 2 ^ 64 →
    (smstep ((fun x => (smstep x).1)^[j] s)).2 = (smstep ((fun x => (smstep x).1)^[k] s)).2 → j = k

/-- R102: SMSEED stores `OP[0]` verbatim and responds OK with no data; SMLOAD is the same command. -/
def Obligations.SmseedStoresLaneZero : Prop :=
  encode .smseed = 0x00000010 ∧
  (∀ s : State, exec .smseed s =
    .next { s with sm := s.op.w0, responses := s.responses ++ [⟨.ok, []⟩] }) ∧
  ∀ (b : Binding) (v : Operand), (⟨b, .smload, [v]⟩ : AsmLine).expand = [⟨b, .smseed, [v]⟩]

/-- R103: SMNEXT adds GAMMA to `SM` and responds with the finalizer of the new `SM`; the rule's corner
cases and its example, the source's own vector. -/
def Obligations.SmnextStepsThenFinalizes : Prop :=
  encode .smnext = 0x00000011 ∧
  (∀ s : State, exec .smnext s =
    .next { s with
      sm := s.sm + GAMMA, responses := s.responses ++ [⟨.ok, [mix64 (s.sm + GAMMA)]⟩] }) ∧
  smstep 0x61c8864680b583eb = (0, 0) ∧
  smstep 0xffffffffffffffff = (0x9e3779b97f4a7c14, 0xe4d971771b652c20) ∧
  smstep 0 = (0x9e3779b97f4a7c15, 0xe220a8397b1dcdaf)

/-- R104: SMGEN N in closed form: `SM` advances by `N * GAMMA`, and data word i is the finalizer of
`SM + (i + 1) * GAMMA`; it is N successive SMNEXT commands with their responses joined into one; N = 0
changes nothing; SMGEN 1 is SMNEXT; SMGEN again goes on with the same sequence; the command word and the
rule's example. -/
def Obligations.SmgenClosedForm : Prop :=
  (∀ n ≤ 255, encode (.smgen n) = 0x00000012 + (BitVec.ofNat 32 n <<< 16)) ∧
  (∀ (n : Nat) (s : State), exec (.smgen n) s =
    .next { s with
      sm := s.sm + BitVec.ofNat 64 n * GAMMA
      responses := s.responses ++
        [⟨.ok, (List.range n).map fun i => mix64 (s.sm + BitVec.ofNat 64 (i + 1) * GAMMA)⟩] }) ∧
  (∀ (n : Nat) (s : State), ∃ (u : State) (ws : List Word),
    exec (.smgen n) s = .next u ∧ u.responses = s.responses ++ [⟨.ok, ws⟩] ∧
    execList (List.replicate n .smnext) s =
      .next { u with responses := s.responses ++ ws.map fun w => ⟨.ok, [w]⟩ }) ∧
  (∀ s : State, exec (.smgen 0) s = .next { s with responses := s.responses ++ [⟨.ok, []⟩] }) ∧
  (∀ s : State, exec (.smgen 1) s = exec .smnext s) ∧
  (∀ (m n : Nat) (s : State), ∃ (t : State) (us vs : List Word),
    execList [.smgen m, .smgen n] s = .next t ∧
    t.responses = s.responses ++ [⟨.ok, us⟩, ⟨.ok, vs⟩] ∧
    exec (.smgen (m + n)) s =
      .next { t with responses := s.responses ++ [⟨.ok, us ++ vs⟩] }) ∧
  encode (.smgen 4) = 0x00040012 ∧
  smgenLoop 4 0 = (0x78dde6e5fd29f054,
    [0xe220a8397b1dcdaf, 0x6e789e6aa1b965f4, 0x06c45d188009454f, 0xf88bb8a8724c81ec])

/-- R107, R129: after SMSEED the responses to SMNEXT, after XSEED or XLOAD the responses to XNEXT of any
variants, are a function of the seed or of the words alone, whatever the unit did before; and the three
variants of seed 0 begin with the three different outputs the rule gives. -/
def Obligations.SeededSequencesAreDeterministic : Prop :=
  (∀ (n : Nat) (v : Word), ∃ rs : List Response, ∀ s : State, s.op.w0 = v →
    ∃ t, execList (.smseed :: List.replicate n .smnext) s = .next t ∧
      t.responses = s.responses ++ rs) ∧
  (∀ (vs : List Variant) (v : Word), ∃ rs : List Response, ∀ s : State, s.op.w0 = v →
    ∃ t, execList (.xseed :: vs.map Variant.xnext) s = .next t ∧ t.responses = s.responses ++ rs) ∧
  (∀ (vs : List Variant) (q : Quad), ∃ rs : List Response, ∀ s : State, s.op = q →
    ∃ t, execList (.xload :: vs.map Variant.xnext) s = .next t ∧ t.responses = s.responses ++ rs) ∧
  (∀ w : Word, ∃ s : Word, (smstep s).2 = w) ∧ (∀ w : Word, w.toNat ≤ 2 ^ 64 - 1) ∧
  outP (seedExpand 0) = 0xdaac60e1ed6a4f9b ∧ outPP (seedExpand 0) = 0x53175d61490b23df ∧
  outSS (seedExpand 0) = 0x99ec5f36cb75f2b4

/-- R105: SMSAVE responds with `SM`; and SMLOAD of that word on any unit makes its next SMNEXT answer
what the saved unit's next SMNEXT answers; right after reset SMSAVE responds the default seed; and the
rule's example. -/
def Obligations.SmsaveRespondsSm : Prop :=
  encode .smsave = 0x00000013 ∧
  (∀ s : State, exec .smsave s = .next { s with responses := s.responses ++ [⟨.ok, [s.sm]⟩] }) ∧
  (∀ s u : State, u.op.w0 = s.sm → ∃ (s' u' : State) (r : Response),
    exec .smnext s = .next s' ∧ execList [.smseed, .smnext] u = .next u' ∧ u'.sm = s'.sm ∧
    s'.responses = s.responses ++ [r] ∧ u'.responses = u.responses ++ [⟨.ok, []⟩, r]) ∧
  exec .smsave State.reset = .next { State.reset with responses := [⟨.ok, [0x00000000499602d2]⟩] } ∧
  ∀ s : State, ∃ t, execList [.smseed, .smnext, .smsave] { s with op := Quad.zero } = .next t ∧
    t.responses = s.responses ++
      [⟨.ok, []⟩, ⟨.ok, [0xe220a8397b1dcdaf]⟩, ⟨.ok, [0x9e3779b97f4a7c15]⟩]

/-- R106: SMEQ responds 1 when `SM` and `OP[0]` agree in all 64 bits, else 0, and writes nothing. -/
def Obligations.SmeqComparesAllBits : Prop :=
  encode .smeq = 0x00000014 ∧
  ∀ s : State, exec .smeq s =
    .next { s with responses := s.responses ++
      [⟨.ok, [if s.sm = s.op.w0 then 0x0000000000000001 else 0x0000000000000000]⟩] }

/-! ### xoshiro256 -/

/-- R123: the transition equals its parallel form, is linear, fixes zero, is a bijection with the
inverse the rule gives, and has the rule's worked value. -/
def Obligations.TransitionIsLinearBijection : Prop :=
  let inverse : Quad → Quad := fun n =>
    let x := rotl n.w3 19
    let s0 := n.w0 ^^^ x
    let y := n.w1 ^^^ n.w2
    let s1 := y ^^^ (y <<< 17) ^^^ (y <<< 34) ^^^ (y <<< 51)
    ⟨s0, s1, n.w1 ^^^ s0 ^^^ s1, x ^^^ s1⟩
  (∀ s : Quad, transition s =
    ⟨s.w0 ^^^ s.w1 ^^^ s.w3, s.w0 ^^^ s.w1 ^^^ s.w2, s.w0 ^^^ s.w2 ^^^ (s.w1 <<< 17),
      rotl (s.w1 ^^^ s.w3) 45⟩) ∧
  (∀ a b : Quad, transition (a.xor b) = (transition a).xor (transition b)) ∧
  transition Quad.zero = Quad.zero ∧
  (∀ s : Quad, inverse (transition s) = s) ∧ (∀ s : Quad, transition (inverse s) = s) ∧
  transition ⟨1, 2, 3, 4⟩ = ⟨0x0000000000000007, 0, 0x0000000000040002, 0x0000c00000000000⟩

/-- R124: the three output functions as numbers, every sum and product reduced modulo 2^64 before the
rotate sees it; Plus and PlusPlus read words 0 and 3 only and StarStar word 1 only; which variant selects
which; and the rule's corner cases and example. -/
def Obligations.OutputFunctionsWrap : Prop :=
  (∀ s : Quad, (outP s).toNat = (s.w0.toNat + s.w3.toNat) % 2 ^ 64) ∧
  (∀ s : Quad, outPP s = rotl (s.w0 + s.w3) 23 + s.w0) ∧
  (∀ s : Quad, outSS s = rotl (s.w1 * 5) 7 * 9) ∧
  outOf .plus = outP ∧ outOf .plusPlus = outPP ∧ outOf .starStar = outSS ∧
  (variantOf 0 = some .plus ∧ variantOf 1 = some .plusPlus ∧ variantOf 2 = some .starStar ∧
    variantOf 3 = none) ∧
  (∀ v : Variant, outOf v Quad.zero = 0) ∧
  outP ⟨0xffffffffffffffff, 0xffffffffffffffff, 0xffffffffffffffff, 0xffffffffffffffff⟩ =
    0xfffffffffffffffe ∧
  outPP ⟨0xffffffffffffffff, 0xffffffffffffffff, 0xffffffffffffffff, 0xffffffffffffffff⟩ =
    0xffffffffff7ffffe ∧
  outSS ⟨0xffffffffffffffff, 0xffffffffffffffff, 0xffffffffffffffff, 0xffffffffffffffff⟩ =
    0xffffffffffffedf7 ∧
  outP ⟨1, 2, 3, 4⟩ = 5 ∧ outPP ⟨1, 2, 3, 4⟩ = 0x0000000002800001 ∧
  outSS ⟨1, 2, 3, 4⟩ = 0x0000000000002d00

/-- R121: XSEED loads `S` with the four SplitMix64 outputs of the seed in `OP[0]`, sets `XV`, leaves
`SM` alone, and responds OK with no data, whatever `XV` is. -/
def Obligations.XseedExpandsTheSeed : Prop :=
  encode .xseed = 0x00000020 ∧
  (∀ s : State, exec .xseed s =
    .next { s with
      xs := ⟨mix64 (s.op.w0 + 1 * GAMMA), mix64 (s.op.w0 + 2 * GAMMA), mix64 (s.op.w0 + 3 * GAMMA),
        mix64 (s.op.w0 + 4 * GAMMA)⟩
      xv := true
      responses := s.responses ++ [⟨.ok, []⟩] }) ∧
  seedExpand 0 =
    ⟨0xe220a8397b1dcdaf, 0x6e789e6aa1b965f4, 0x06c45d188009454f, 0xf88bb8a8724c81ec⟩

/-- R122: XLOAD loads `S` with the four lanes verbatim, the all-zero state like any other, sets `XV`,
and responds OK with no data, whatever `XV` is; XRESTORE is the same command. -/
def Obligations.XloadStoresLanesVerbatim : Prop :=
  encode .xload = 0x00000021 ∧
  (∀ s : State, exec .xload s =
    .next { s with xs := s.op, xv := true, responses := s.responses ++ [⟨.ok, []⟩] }) ∧
  ∀ (b : Binding) (args : List Operand),
    (⟨b, .xrestore, args⟩ : AsmLine).expand = [⟨b, .xload, args⟩]

/-- R125: on a loaded unit XNEXT responds with its variant's output of the state BEFORE the step and
steps `S`; on an unloaded one it responds ERR_UNINIT and changes nothing; XNEXT.P then XNEXT.SS; and the
rule's examples. -/
def Obligations.XnextRespondsFromOldState : Prop :=
  encode .xnextP = 0x00000022 ∧ encode .xnextPP = 0x00000122 ∧ encode .xnextSS = 0x00000222 ∧
  (∀ s : State, s.xv = true →
    exec .xnextP s = .next { s with
      xs := transition s.xs, responses := s.responses ++ [⟨.ok, [outP s.xs]⟩] } ∧
    exec .xnextPP s = .next { s with
      xs := transition s.xs, responses := s.responses ++ [⟨.ok, [outPP s.xs]⟩] } ∧
    exec .xnextSS s = .next { s with
      xs := transition s.xs, responses := s.responses ++ [⟨.ok, [outSS s.xs]⟩] } ∧
    execList [.xnextP, .xnextSS] s = .next { s with
      xs := transition (transition s.xs)
      responses := s.responses ++ [⟨.ok, [outP s.xs]⟩, ⟨.ok, [outSS (transition s.xs)]⟩] }) ∧
  (∀ (s : State) (v : Variant), s.xv = false →
    exec v.xnext s = .next { s with responses := s.responses ++ [⟨.errUninit, []⟩] }) ∧
  ∀ (s : State) (v : Variant) (w : Word),
    (v = .plus ∧ w = 0x0000000000000005 ∨ v = .plusPlus ∧ w = 0x0000000002800001 ∨
      v = .starStar ∧ w = 0x0000000000002d00) →
    exec v.xnext { s with xs := ⟨1, 2, 3, 4⟩, xv := true } = .next { s with
      xs := ⟨0x0000000000000007, 0, 0x0000000000040002, 0x0000c00000000000⟩
      xv := true
      responses := s.responses ++ [⟨.ok, [w]⟩] }

/-- R78 and R125: in a run of XNEXT commands of any variants, command i responds with its own variant's
output of the start state stepped i times; the variants never change the sequence of states. -/
def Obligations.VariantsShareOneStateSequence : Prop :=
  ∀ (vs : List Variant) (s : State), s.xv = true →
    execList (vs.map Variant.xnext) s = .next { s with
      xs := stepsOn vs.length s.xs
      responses := s.responses ++
        vs.mapIdx fun i v => ⟨.ok, [outOf v (stepsOn i s.xs)]⟩ }

/-- R126: the zero state is a fixed point of the transition and of both jumps, every variant outputs 0
from it, and no other state steps to it. -/
def Obligations.ZeroStateIsIsolatedFixedPoint : Prop :=
  (∀ q : Quad, transition q = Quad.zero ↔ q = Quad.zero) ∧
  (∀ p : Quad, jumpBy p Quad.zero = Quad.zero) ∧
  ∀ s : State, s.xv = true → s.xs = Quad.zero →
    (∀ v : Variant, exec v.xnext s = .next { s with responses := s.responses ++ [⟨.ok, [0]⟩] }) ∧
    exec .xjump s = .next { s with responses := s.responses ++ [⟨.ok, []⟩] } ∧
    exec .xljump s = .next { s with responses := s.responses ++ [⟨.ok, []⟩] }

/-- R127: on a loaded unit XSAVE responds with `S[0]` to `S[3]` in order and writes nothing; on an
unloaded one ERR_UNINIT; XLOAD of the saved words on any unit puts `S` back there, and the next XNEXT
answers alike on both; and the rule's example. -/
def Obligations.XsaveRespondsTheFourWords : Prop :=
  encode .xsave = 0x00000025 ∧
  (∀ s : State, s.xv = true → exec .xsave s = .next { s with
    responses := s.responses ++ [⟨.ok, [s.xs.w0, s.xs.w1, s.xs.w2, s.xs.w3]⟩] }) ∧
  (∀ s : State, s.xv = false → exec .xsave s = .next { s with
    responses := s.responses ++ [⟨.errUninit, []⟩] }) ∧
  (∀ s t u : State, s.xv = true → exec .xsave s = .next t →
    t.responses = s.responses ++ [⟨.ok, u.op.toList⟩] →
    (∃ u', exec .xload u = .next u' ∧ u'.xs = s.xs ∧ u'.xv = true) ∧
    ∀ v : Variant, ∃ s' u' r, exec v.xnext s = .next s' ∧ s'.responses = s.responses ++ [r] ∧
      execList [.xload, v.xnext] u = .next u' ∧ u'.responses = u.responses ++ [⟨.ok, []⟩, r]) ∧
  ∀ (s : State) (v : Variant), ∃ t,
    execList [.xload, v.xnext, .xsave] { s with op := ⟨1, 2, 3, 4⟩ } = .next t ∧
    t.responses = s.responses ++ [⟨.ok, []⟩, ⟨.ok, [outOf v ⟨1, 2, 3, 4⟩]⟩,
      ⟨.ok, [0x0000000000000007, 0, 0x0000000000040002, 0x0000c00000000000]⟩]

/-- R128: on a loaded unit XEQ responds 1 when `S` and the lanes agree word by word, else 0, and writes
nothing; on an unloaded one ERR_UNINIT. -/
def Obligations.XeqComparesWordByWord : Prop :=
  encode .xeq = 0x00000026 ∧
  (∀ s : State, s.xv = true → exec .xeq s = .next { s with
    responses := s.responses ++
      [⟨.ok, [if s.xs.w0 = s.op.w0 ∧ s.xs.w1 = s.op.w1 ∧ s.xs.w2 = s.op.w2 ∧ s.xs.w3 = s.op.w3
        then 0x0000000000000001 else 0x0000000000000000]⟩] }) ∧
  ∀ s : State, s.xv = false → exec .xeq s = .next { s with
    responses := s.responses ++ [⟨.errUninit, []⟩] }

/-! ### Jumps -/

/-- R151: `jumpBy` is the exclusive OR of the start state stepped k times, over the set bits k of the
polynomial; it is linear, commutes with the transition, and two jumps commute. -/
def Obligations.JumpIsPolynomialInTransition : Prop :=
  (∀ p s : Quad, jumpBy p s =
    (((List.range 256).filter fun k => (p.toList.getD (k / 64) 0).getLsbD (k % 64)).map
      fun k => stepsOn k s).foldl Quad.xor Quad.zero) ∧
  (∀ p a b : Quad, jumpBy p (a.xor b) = (jumpBy p a).xor (jumpBy p b)) ∧
  (∀ p s : Quad, jumpBy p (transition s) = transition (jumpBy p s)) ∧
  ∀ p q s : Quad, jumpBy p (jumpBy q s) = jumpBy q (jumpBy p s)

/-- R150 and R154: on a loaded unit XJUMP replaces `S` by `jumpBy` of JUMP_POLY and responds OK with no
data; on an unloaded one ERR_UNINIT; the rule's example. -/
def Obligations.XjumpAppliesJumpPoly : Prop :=
  encode .xjump = 0x00000023 ∧
  (∀ s : State, s.xv = true → exec .xjump s = .next { s with
    xs := jumpBy ⟨0x180ec6d33cfd0aba, 0xd5a61266f0c9392c, 0xa9582618e03fc9aa, 0x39abdc4529b1661c⟩ s.xs
    responses := s.responses ++ [⟨.ok, []⟩] }) ∧
  (∀ s : State, s.xv = false → exec .xjump s = .next { s with
    responses := s.responses ++ [⟨.errUninit, []⟩] }) ∧
  jumpBy JUMP_POLY ⟨1, 2, 3, 4⟩ =
    ⟨0x8c7a153956b5f3d1, 0x701f1a713401d85e, 0x6527f66a65469085, 0x8386b786c4408050⟩

/-- R150 and R155: XLJUMP is XJUMP with LJUMP_POLY; the rule's example. -/
def Obligations.XljumpAppliesLjumpPoly : Prop :=
  encode .xljump = 0x00000024 ∧
  (∀ s : State, s.xv = true → exec .xljump s = .next { s with
    xs := jumpBy ⟨0x76e15d3efefdcbbf, 0xc5004e441c522fb3, 0x77710069854ee241, 0x39109bb02acbe635⟩ s.xs
    responses := s.responses ++ [⟨.ok, []⟩] }) ∧
  (∀ s : State, s.xv = false → exec .xljump s = .next { s with
    responses := s.responses ++ [⟨.errUninit, []⟩] }) ∧
  jumpBy LJUMP_POLY ⟨1, 2, 3, 4⟩ =
    ⟨0x096a8eb71295a400, 0xdbf84991e50f4516, 0x534ee745810d2a0e, 0x31655ca1a2215bf1⟩

/-- R154: the state XJUMP leaves is the one 2^128 successive XNEXT commands would have left; two
advance by 2^129; XJUMP then XNEXT and XNEXT then XJUMP leave the same state. (It rests on the default
words of JUMP_POLY, log entry 7.) -/
def Obligations.XjumpSkips2Pow128Steps : Prop :=
  ∀ s : State, s.xv = true →
    exec .xjump s = .next { s with
      xs := stepsOn (2 ^ 128) s.xs, responses := s.responses ++ [⟨.ok, []⟩] } ∧
    (∃ t, execList [.xjump, .xjump] s = .next t ∧ t.xs = stepsOn (2 ^ 129) s.xs) ∧
    ∀ v : Variant, ∃ t u, execList [.xjump, v.xnext] s = .next t ∧
      execList [v.xnext, .xjump] s = .next u ∧ t.xs = u.xs

/-- R155: the state XLJUMP leaves is the one 2^192 successive XNEXT commands would have left, and it
commutes with XJUMP. (It rests on the default words of LJUMP_POLY, log entry 7.) -/
def Obligations.XljumpSkips2Pow192Steps : Prop :=
  ∀ s : State, s.xv = true →
    exec .xljump s = .next { s with
      xs := stepsOn (2 ^ 192) s.xs, responses := s.responses ++ [⟨.ok, []⟩] } ∧
    ∃ t, execList [.xjump, .xljump] s = .next t ∧ execList [.xljump, .xjump] s = .next t

/-- R150, R156: a jump is the rule's loop over the words in order and the bits of each from bit 0 up,
where every bit, set or not, is followed by one step; so 256 steps are taken whatever the polynomial; and
the default polynomials (log entry 7) have 122 and 128 set bits, the number of accumulations. -/
def Obligations.JumpCostsAreFixed : Prop :=
  (∀ p s : Quad,
    let iteration (w : Word) (r : Quad × Quad) (b : Nat) : Quad × Quad :=
      (if w.getLsbD b then r.1.xor r.2 else r.1, transition r.2)
    let final := p.toList.foldl (fun r w => (List.range 64).foldl (iteration w) r) (Quad.zero, s)
    jumpBy p s = final.1 ∧ final.2 = stepsOn 256 s) ∧
  (polyBits JUMP_POLY).count true = 122 ∧ (polyBits LJUMP_POLY).count true = 128

/-! ### Utility -/

/-- R170, R171: GMIN responds 0 and GMAX 2^64 − 1 in every state, and neither changes any state. -/
def Obligations.RangeCommandsAreConstant : Prop :=
  encode .gmin = 0x00000030 ∧ encode .gmax = 0x00000031 ∧
  ∀ s : State,
    exec .gmin s = .next { s with responses := s.responses ++ [⟨.ok, [0x0000000000000000]⟩] } ∧
    exec .gmax s = .next { s with responses := s.responses ++ [⟨.ok, [0xffffffffffffffff]⟩] }

/-- R172: the pattern of `u2d x` is the number `(x >> 11) * 2^-53`, exactly, and it lies in [0, 1).
(The binary64 layout is the one the spec supplies, log entry 11.) -/
def Obligations.DoubleIsExact : Prop :=
  ∀ x : Word, doubleValue (u2dBits x) = some (((x >>> 11).toNat : ℚ) / 2 ^ 53) ∧
    (0 : ℚ) ≤ ((x >>> 11).toNat : ℚ) / 2 ^ 53 ∧ ((x >>> 11).toNat : ℚ) / 2 ^ 53 < 1

/-- R172: the low 11 bits never matter, inputs that differ above them give different results, and a
larger input gives a pattern at least as large. -/
def Obligations.DoubleDependsOnHigh53Bits : Prop :=
  (∀ x y : Word, u2dBits x = u2dBits y ↔ x >>> 11 = y >>> 11) ∧
  (∀ x y : Word, x.toNat ≤ y.toNat → (u2dBits x).toNat ≤ (u2dBits y).toNat) ∧
  ∀ x : Word, (u2dBits x).toNat ≤ 0x3fefffffffffffff

/-- R173: U2D responds with `u2d` of `OP[0]` and changes no state; the rule's example and the corner
cases of R172's table. -/
def Obligations.U2dRespondsTheDouble : Prop :=
  encode .u2d = 0x00000032 ∧
  (∀ s : State, exec .u2d s =
    .next { s with responses := s.responses ++ [⟨.ok, [u2dBits s.op.w0]⟩] }) ∧
  u2dBits 0xe220a8397b1dcdaf = 0x3fec4415072f63b9 ∧
  u2dBits 0x00000000000007ff = 0x0000000000000000 ∧
  u2dBits 0x0000000000000800 = 0x3ca0000000000000 ∧
  u2dBits 0x0000000000001800 = 0x3cb8000000000000 ∧
  u2dBits 0x8000000000000000 = 0x3fe0000000000000 ∧
  u2dBits 0xfffffffffffff7ff = 0x3feffffffffffffe ∧
  u2dBits 0xffffffffffffffff = 0x3fefffffffffffff

/-- R174: STAT responds with `XV` zero-extended to 64 bits, whatever `XV` is, and changes no state. -/
def Obligations.StatRespondsXv : Prop :=
  encode .stat = 0x00000033 ∧
  ∀ s : State,
    exec .stat s = .next { s with responses := s.responses ++
      [⟨.ok, [if s.xv = true then 0x0000000000000001 else 0x0000000000000000]⟩] }

/-! ### The machine -/

/-- R51, R59, R195: with a command whose word decodes to `i` next on the command port, a step is `exec`
of `i`, after the unit has sampled the command's lanes and taken the command off the port. -/
def Obligations.StepRunsTheDecodedCommand : Prop :=
  ∀ (s : State) (c : Command) (rest : List HostMove) (i : Instr),
    s.pending = .command c :: rest → decode c.word = .instr i →
    step s = exec i { s with pending := rest, op := c.lanes }

/-- R196, R205: with no move of the host pending nothing happens and the state is retained. -/
def Obligations.NothingHappensWithoutAMove : Prop :=
  ∀ s : State, s.pending = [] → step s = .next s

/-- R191, R192, R195: a command is answered ERR_ILLEGAL exactly when its word does not decode,
otherwise ERR_UNINIT exactly when it is one of the seven commands that need `S` and `XV = 0`, otherwise
OK; every accepted command gets one response. -/
def Obligations.StatusIsByPriority : Prop :=
  (∀ i : Instr, needsXV i = true ↔
    i ∈ [Instr.xnextP, .xnextPP, .xnextSS, .xjump, .xljump, .xsave, .xeq]) ∧
  ∀ (s : State) (c : Command) (rest : List HostMove), s.pending = .command c :: rest →
    ∃ t r, step s = .next t ∧ t.responses = s.responses ++ [r] ∧
      (r.status = .errIllegal ↔ (decode c.word).isLegal = false) ∧
      (r.status = .errUninit ↔ ∃ i, decode c.word = .instr i ∧ needsXV i = true ∧ s.xv = false) ∧
      (r.status = .ok ↔ ∃ i, decode c.word = .instr i ∧ (needsXV i = true → s.xv = true))

/-- R193: a command answered with an error writes nothing, and its response has no data words. -/
def Obligations.ErrorsChangeNoState : Prop :=
  ∀ (s t : State) (c : Command) (rest : List HostMove) (r : Response),
    s.pending = .command c :: rest → step s = .next t → t.responses = s.responses ++ [r] →
    r.status ≠ .ok →
    r.data = [] ∧ t = { s with pending := rest, op := c.lanes, responses := s.responses ++ [r] }

/-- R194: the commands after a failed one are answered exactly as if it had never been issued. -/
def Obligations.ErrorsLeaveNoRecord : Prop :=
  ∀ (s : State) (c : Command) (rest : List HostMove), statusOf s.xv c.word ≠ .ok →
    ∀ (k : Nat) (rs : List Response),
      Responds k { s with pending := rest } rs ↔
      Responds (k + 1) { s with pending := .command c :: rest } (⟨statusOf s.xv c.word, []⟩ :: rs)

/-- R53: a command adds exactly one response, at the end, with the number of data words the table gives
its OK response, or none where it is an error; of the words, XSAVE's are `S` in order, and SMGEN's are in
the order generated. -/
def Obligations.ResponseLengthIsFixed : Prop :=
  ∀ (s : State) (c : Command) (rest : List HostMove), s.pending = .command c :: rest →
    ∃ t r, step s = .next t ∧ t.responses = s.responses ++ [r] ∧
      (r.status ≠ .ok → r.data = []) ∧
      (∀ i ∈ [Instr.smseed, .xseed, .xload, .xjump, .xljump],
        decode c.word = .instr i → r.status = .ok → r.data = []) ∧
      (∀ i ∈ [Instr.smnext, .smsave, .smeq, .xnextP, .xnextPP, .xnextSS, .xeq, .gmin, .gmax, .u2d, .stat],
        decode c.word = .instr i → r.status = .ok → r.data.length = 1) ∧
      (decode c.word = .instr .xsave → r.status = .ok →
        r.data = [s.xs.w0, s.xs.w1, s.xs.w2, s.xs.w3]) ∧
      ∀ n, decode c.word = .instr (.smgen n) →
        r = ⟨.ok, (List.range n).map fun i => mix64 (s.sm + BitVec.ofNat 64 (i + 1) * GAMMA)⟩

/-- R34: `XV` becomes 1 by XSEED and XLOAD only and 0 by reset only, and no step changes it
otherwise. -/
def Obligations.XvChangesByLoadAndResetOnly : Prop :=
  ∀ s t : State, step s = .next t →
    (s.pending = [] → t.xv = s.xv) ∧
    (∀ c rest, s.pending = .command c :: rest →
      (t.xv = true ↔ s.xv = true ∨ decode c.word = .instr .xseed ∨ decode c.word = .instr .xload)) ∧
    (∀ rest, s.pending = .reset :: rest → t.xv = false) ∧
    ∀ c rest, s.pending = .resetDuring c :: rest → t.xv = false

/-- R192, last part: once loaded, and until a reset, no command is answered ERR_UNINIT. -/
def Obligations.NoUninitOnceLoaded : Prop :=
  ∀ (k : Nat) (s : State) (rs : List Response), s.xv = true →
    (∀ m ∈ s.pending, m.isCommand = true) → Responds k s rs →
    ∀ r ∈ rs, r.status ≠ .errUninit

/-- R33: no command lets one generator's state reach the other's: the `SM` a command leaves does not
depend on `S`, and the `S` it leaves does not depend on `SM`. -/
def Obligations.GeneratorsAreIndependent : Prop :=
  ∀ (i : Instr) (s : State) (q : Quad) (w : Word), ∃ t tq tw,
    exec i s = .next t ∧ exec i { s with xs := q } = .next tq ∧ exec i { s with sm := w } = .next tw ∧
    tq.sm = t.sm ∧ tw.xs = t.xs

/-- R30 to R34, the frame of every command: `SM` changes by SMSEED, SMNEXT and SMGEN only, `S` by XSEED,
XLOAD, XNEXT and the jumps only, `XV` by XSEED and XLOAD only; the lanes, the commands to come and the
count of resets do not change; and the responses already delivered stay. -/
def Obligations.CommandsWriteOnlyTheirRegisters : Prop :=
  ∀ (i : Instr) (s t : State), exec i s = .next t →
    (writesSM i = false → t.sm = s.sm) ∧ (writesS i = false → t.xs = s.xs) ∧
    (loadsS i = false → t.xv = s.xv) ∧ t.op = s.op ∧ t.pending = s.pending ∧ t.resets = s.resets ∧
    ∃ r, t.responses = s.responses ++ [r]

/-- R52: four commands read lane 0, two read all four, the rest none; and the value on a lane that a
command does not read has no effect on the state or on the response. -/
def Obligations.UnusedLanesHaveNoEffect : Prop :=
  (∀ i : Instr, lanesUsed i =
    if i ∈ [Instr.smseed, .smeq, .xseed, .u2d] then 1 else if i ∈ [Instr.xload, .xeq] then 4 else 0) ∧
  ∀ (i : Instr) (s : State) (a b : Quad), sameLanesRead i a b →
    ∃ t : State, exec i { s with op := a } = .next { t with op := a } ∧
      exec i { s with op := b } = .next { t with op := b }

/-- R62: the eight reading commands change no state and respond the same however often they are issued;
the commands that both return data and change state are SMNEXT, SMGEN and XNEXT only. -/
def Obligations.ReadersAreIdempotent : Prop :=
  (∀ (i : Instr) (s : State), isReader i = true → ∃ r : Response, ∀ n : Nat,
    execList (List.replicate n i) s =
      .next { s with responses := s.responses ++ List.replicate n r }) ∧
  ∀ (i : Instr) (s t : State) (r : Response), exec i s = .next t →
    t.responses = s.responses ++ [r] → r.data ≠ [] → ¬ sameUnit s t → isDrawing i = true

/-- R15, R231: every command terminates: from every state every number of steps completes, with neither
fault nor refusal. -/
def Obligations.EveryRunCompletes : Prop :=
  ∀ (k : Nat) (s : State), ∃ t, Sys2Proof.core.run k s = .next t

/-- R53, R193: the form of the responses (an error has no data, an OK response at most 255 words) is an
invariant of every step, from every state that has it. -/
def Obligations.ResponsesStayWellShaped : Prop :=
  ∀ s t : State, s.Inv → step s = .next t → t.Inv

/-- The reset state meets that invariant. -/
def Obligations.ResetResponsesWellShaped : Prop := State.reset.Inv

/-- R203: worker i, which loads the common seed and issues XJUMP i times, stands i * 2^128 steps on from
worker 0, with no communication. (It rests on the default words of JUMP_POLY, log entry 7.) -/
def Obligations.WorkersStand2Pow128StepsApart : Prop :=
  ∀ (i : Nat) (s : State), ∃ t, execList (.xseed :: List.replicate i .xjump) s = .next t ∧
    t.xs = stepsOn (i * 2 ^ 128) (seedExpand s.op.w0)

/-- R221: reset takes every state to the reset state, at once and without a response; a command that it
interrupts leaves nothing; what the host has received it keeps (log entry 3). -/
def Obligations.ResetDiscardsEverything : Prop :=
  ∀ (s : State) (c : Command) (rest : List HostMove), ∃ t,
    step { s with pending := .reset :: rest } = .next t ∧
    step { s with pending := .resetDuring c :: rest } = .next t ∧
    t.sm = State.reset.sm ∧ t.xv = State.reset.xv ∧ t.pending = rest ∧ t.responses = s.responses

/-- R40, R220: after reset `SM` is the default seed, `XV` is 0, no command is in execution and no
response is pending; and whatever the host does from there, no response depends on what `S` held. (The
model's own value for `S` in `State.reset` is log entry 1; nothing is stated of it.) -/
def Obligations.ResetContentsOfSUnobservable : Prop :=
  State.reset.sm = 0x00000000499602d2 ∧ State.reset.sm.toNat = 1234567890 ∧
  State.reset.xv = false ∧ State.reset.pending = [] ∧ State.reset.responses = [] ∧
  ∀ (moves : List HostMove) (q q' : Quad) (k : Nat) (rs : List Response),
    Responds k { State.reset with xs := q, pending := moves } rs →
    Responds k { State.reset with xs := q', pending := moves } rs

/-- R16, R107, R129: two units with the same `SM` and `XV`, and the same `S` where it is loaded, answer
every sequence of moves alike, whatever `S` holds before it is loaded, whatever resets gave it, and
whatever the units did before. -/
def Obligations.IndistinctUnitsAnswerAlike : Prop :=
  ∀ (k : Nat) (s t : State) (rs : List Response), Indistinct s t → Responds k s rs → Responds k t rs

/-- R43: a unit into which the host has loaded the words that XSAVE and SMSAVE of another returned gives
the same responses to the same moves as that other. -/
def Obligations.CopiedUnitAnswersAlike : Prop :=
  ∀ (s u : State) (x y z : Word) (moves : List HostMove) (k : Nat) (rs : List Response),
    s.xv = true →
    exec .xsave s = .next (s.respondWith ⟨.ok, s.xs.toList⟩) ∧
    exec .smsave s = .next (s.respondWith ⟨.ok, [s.sm]⟩) ∧
    (Responds k { s with pending := moves } rs →
      Responds (k + 2)
        { u with pending :=
            .command ⟨encode .xload, s.xs⟩ :: .command ⟨encode .smseed, ⟨s.sm, x, y, z⟩⟩ :: moves }
        (⟨.ok, []⟩ :: ⟨.ok, []⟩ :: rs))

/-! ### Outside the unit -/

/-- R55: byte k of a word, and of a command word, is bits [8k+7 : 8k], byte 0 first; a four-word state is
its words' bytes, word 0 first; and each comes back from its 8, 4 or 32 bytes. -/
def Obligations.BytesAreLittleEndian : Prop :=
  (∀ (w : Word) (k : Nat), k < 8 → (wordBytes w)[k]? = some (w.extractLsb' (8 * k) 8)) ∧
  (∀ w : Word, (wordBytes w).length = 8 ∧ wordOfBytes (wordBytes w) = w) ∧
  (∀ (w : CmdWord) (k : Nat), k < 4 → (cmdBytes w)[k]? = some (w.extractLsb' (8 * k) 8)) ∧
  (∀ w : CmdWord, (cmdBytes w).length = 4 ∧ cmdOfBytes (cmdBytes w) = w) ∧
  ∀ q : Quad, quadBytes q = wordBytes q.w0 ++ wordBytes q.w1 ++ wordBytes q.w2 ++ wordBytes q.w3 ∧
    (quadBytes q).length = 32 ∧ quadOfBytes (quadBytes q) = q

/-- R63 (informative): a response of k data words is max(1, k) beats, word 0 first, the status on every
beat, and the last-beat mark on the last beat only. -/
def Obligations.ResponseBeatsCarryTheWords : Prop :=
  ∀ r : Response,
    r.beats.length = max 1 r.data.length ∧
    r.beats.filterMap Beat.data = r.data ∧
    (∀ b ∈ r.beats, b.status = r.status.code) ∧
    r.beats.map Beat.last = List.replicate (r.beats.length - 1) false ++ [true]

/-- R190: the three statuses have the codes 0, 1 and 2, and code 3 is never produced. -/
def Obligations.StatusCodesAreThree : Prop :=
  Status.ok.code = 0 ∧ Status.errIllegal.code = 1 ∧ Status.errUninit.code = 2 ∧
  ∀ e : Status, e.code ≠ 3

/-- R81: the expansions of the pseudo-commands, the two responses of XNEXTD, what XSEEDVIA leaves (the
same `S` as XSEED, but `SM = v + 4 * GAMMA`), and no bare XNEXT. (That what stands left of the arrow is
bound by the last command of XNEXTD and of XSEEDVIA is the model's choice, log entry 16.) -/
def Obligations.PseudoCommandsExpand : Prop :=
  (∀ (b : Binding) (v : Operand), (⟨b, .smload, [v]⟩ : AsmLine).expand = [⟨b, .smseed, [v]⟩]) ∧
  (∀ b : Binding, (⟨b, .core .smseed, []⟩ : AsmLine).expand =
    [⟨b, .smseed, [.literal 1234567890]⟩]) ∧
  (∀ (x : Binding) (a b c d : Operand),
    (⟨x, .xrestore, [a, b, c, d]⟩ : AsmLine).expand = [⟨x, .xload, [a, b, c, d]⟩]) ∧
  (∀ (b : Binding) (v : Variant), (⟨b, .xnextd v, []⟩ : AsmLine).expand =
    [⟨.one ['t'], v.xnext, []⟩, ⟨b, .u2d, [.name ['t']]⟩]) ∧
  (∀ (b : Binding) (v : Operand), (⟨b, .xseedvia, [v]⟩ : AsmLine).expand =
    [⟨.nothing, .smseed, [v]⟩, ⟨.four ['a'] ['b'] ['c'] ['d'], .smgen 4, []⟩,
      ⟨b, .xload, [.name ['a'], .name ['b'], .name ['c'], .name ['d']]⟩]) ∧
  (∀ (env : HostEnv) (s : State) (v : Variant), s.xv = true → ∃ env' t,
    runListing [⟨.nothing, .xnextd v, []⟩] env s = some (env', t) ∧ t.xs = transition s.xs ∧
    t.responses = s.responses ++
      [⟨.ok, [outOf v s.xs]⟩, ⟨.ok, [u2dBits (outOf v s.xs)]⟩]) ∧
  ∀ (env : HostEnv) (s : State) (v : Word), ∃ e₁ e₂ t u,
    runListing [⟨.nothing, .xseedvia, [.literal v]⟩] env s = some (e₁, t) ∧
    runListing [⟨.nothing, .core .xseed, [.literal v]⟩] env s = some (e₂, u) ∧
    t.xs = u.xs ∧ t.xv = true ∧ u.xv = true ∧ t.sm = v + 4 * GAMMA ∧ u.sm = s.sm ∧
    parseLine "XNEXT".toList = none

/-- R80: each core line of the table assembles to the word of its row, with its operands on the lanes in
order and zeros on the rest. (That a line with another number of operands does not assemble is the
model's reading, log entry 16.) -/
def Obligations.CoreLinesAssemble : Prop :=
  ∀ (env : HostEnv) (b : Binding) (i : Instr) (args : List Operand), i.WellFormed →
    ((CoreLine.assemble env ⟨b, i, args⟩).isSome = true ↔
      args.length = lanesUsed i ∧ ∀ a ∈ args, (a.value env).isSome = true) ∧
    ∀ c, CoreLine.assemble env ⟨b, i, args⟩ = some c → c.word = encode i ∧
      ∀ k < 4, c.lanes.toList[k]? =
        some ((args[k]?.bind (Operand.value env)).getD 0)
end

