-- ==== Sys2Proof/Laws/Arith.lean ====
section
/-! SUPPORT. The algebra of the four-word exclusive OR and of the primitives over it: what makes the
transition and the jump loop linear. An equation true by `rfl` is proved `(rfl)`: simp then uses it as an
equation, not by computing (the kernel, made to compare `s` with `s + GAMMA` by computing, counts). -/

namespace Sys2Proof

namespace Quad

@[simp] theorem xor_w0 (a b : Quad) : (a.xor b).w0 = a.w0 ^^^ b.w0 := (rfl)
@[simp] theorem xor_w1 (a b : Quad) : (a.xor b).w1 = a.w1 ^^^ b.w1 := (rfl)
@[simp] theorem xor_w2 (a b : Quad) : (a.xor b).w2 = a.w2 ^^^ b.w2 := (rfl)
@[simp] theorem xor_w3 (a b : Quad) : (a.xor b).w3 = a.w3 ^^^ b.w3 := (rfl)

theorem xor_assoc (a b c : Quad) : (a.xor b).xor c = a.xor (b.xor c) := by
  simp [xor, BitVec.xor_assoc]

theorem xor_comm (a b : Quad) : a.xor b = b.xor a := by
  simp [xor, BitVec.xor_comm]

@[simp] theorem xor_zero (a : Quad) : a.xor zero = a := by simp [xor, zero]

@[simp] theorem zero_xor (a : Quad) : zero.xor a = a := by simp [xor, zero]

@[simp] theorem xor_self (a : Quad) : a.xor a = zero := by simp [xor, zero]

theorem xor_left_comm (a b c : Quad) : a.xor (b.xor c) = b.xor (a.xor c) := by
  rw [← xor_assoc, xor_comm a b, xor_assoc]

@[simp] theorem length_toList (a : Quad) : a.toList.length = 4 := (rfl)

end Quad

namespace Machine

theorem shl_xor (x y : Word) (n : Nat) : shl (x ^^^ y) n = shl x n ^^^ shl y n :=
  BitVec.shiftLeft_xor_distrib x y n

theorem shr_xor (x y : Word) (n : Nat) : shr (x ^^^ y) n = shr x n ^^^ shr y n :=
  BitVec.ushiftRight_xor_distrib x y n

/-- A bit of a rotated word, for an amount in the range of R13. -/
theorem getLsbD_rotl (x : Word) (n i : Nat) (hn : n < 64) (hi : i < 64) :
    (rotl x n).getLsbD i = if i < n then x.getLsbD (64 - n + i) else x.getLsbD (i - n) := by
  rw [rotl, shl, shr, BitVec.getLsbD_or, BitVec.getLsbD_shiftLeft, BitVec.getLsbD_ushiftRight]
  by_cases h : i < n
  · simp [h]
  · simp only [h, hi, decide_true, decide_false, Bool.not_false, Bool.true_and, if_false]
    rw [BitVec.getLsbD_of_ge x (64 - n + i) (by omega), Bool.or_false]

/-- Outside the range of R13, where no rule calls it, a rotation by 64 or more gives its operand. -/
theorem rotl_of_ge (x : Word) (n : Nat) (hn : 64 ≤ n) : rotl x n = x := by
  rw [rotl, shl, shr, BitVec.shiftLeft_eq_zero hn, Nat.sub_eq_zero_of_le hn]
  exact BitVec.zero_or

theorem rotl_xor (x y : Word) (n : Nat) : rotl (x ^^^ y) n = rotl x n ^^^ rotl y n := by
  rcases Nat.lt_or_ge n 64 with hn | hn
  · refine BitVec.eq_of_getLsbD_eq fun i hi => ?_
    rw [BitVec.getLsbD_xor, getLsbD_rotl _ n i hn hi, getLsbD_rotl _ n i hn hi,
      getLsbD_rotl _ n i hn hi]
    split <;> exact BitVec.getLsbD_xor
  · rw [rotl_of_ge _ n hn, rotl_of_ge _ n hn, rotl_of_ge _ n hn]

/-! The transition word by word, as its six updates leave it. -/

theorem transition_w0 (s : Quad) : (transition s).w0 = s.w0 ^^^ (s.w3 ^^^ s.w1) := (rfl)
theorem transition_w1 (s : Quad) : (transition s).w1 = s.w1 ^^^ (s.w2 ^^^ s.w0) := (rfl)
theorem transition_w2 (s : Quad) : (transition s).w2 = (s.w2 ^^^ s.w0) ^^^ shl s.w1 17 := (rfl)
theorem transition_w3 (s : Quad) : (transition s).w3 = rotl (s.w3 ^^^ s.w1) 45 := (rfl)

/-- The transition is linear over exclusive OR: every step of it is (R123). -/
theorem transition_xor (a b : Quad) :
    transition (a.xor b) = (transition a).xor (transition b) := by
  apply Quad.ext
  · simp only [Quad.xor_w0, Quad.xor_w1, Quad.xor_w3, transition_w0]; ac_rfl
  · simp only [Quad.xor_w0, Quad.xor_w1, Quad.xor_w2, transition_w1]; ac_rfl
  · simp only [Quad.xor_w0, Quad.xor_w1, Quad.xor_w2, transition_w2, shl_xor]
    generalize shl a.w1 17 = p
    generalize shl b.w1 17 = q
    ac_rfl
  · simp only [Quad.xor_w1, Quad.xor_w3, transition_w3, ← rotl_xor]
    congr 1
    ac_rfl

@[simp] theorem transition_zero : transition Quad.zero = Quad.zero := by decide

@[simp] theorem stepsOn_zero (q : Quad) : stepsOn 0 q = q := (rfl)

theorem stepsOn_succ (k : Nat) (q : Quad) : stepsOn (k + 1) q = transition (stepsOn k q) :=
  Function.iterate_succ_apply' transition k q

theorem stepsOn_succ' (k : Nat) (q : Quad) : stepsOn (k + 1) q = stepsOn k (transition q) :=
  Function.iterate_succ_apply transition k q

theorem stepsOn_add (j k : Nat) (q : Quad) : stepsOn (j + k) q = stepsOn j (stepsOn k q) :=
  Function.iterate_add_apply transition j k q

theorem stepsOn_xor (k : Nat) (a b : Quad) :
    stepsOn k (a.xor b) = (stepsOn k a).xor (stepsOn k b) := by
  induction k with
  | zero => rfl
  | succ k ih => rw [stepsOn_succ, ih, transition_xor, ← stepsOn_succ, ← stepsOn_succ]

/-! ### The jump loop (R150) -/

@[simp] theorem jumpLoop_nil (acc cur : Quad) : jumpLoop [] acc cur = acc := by
  rw [jumpLoop]

theorem jumpLoop_cons (b : Bool) (bits : List Bool) (acc cur : Quad) :
    jumpLoop (b :: bits) acc cur =
      jumpLoop bits (if b then acc.xor cur else acc) (transition cur) := by
  rw [jumpLoop]

/-- What is in the accumulators at the start is only added to the result. -/
theorem jumpLoop_acc (bits : List Bool) (acc cur : Quad) :
    jumpLoop bits acc cur = acc.xor (jumpLoop bits Quad.zero cur) := by
  induction bits generalizing acc cur with
  | nil => simp
  | cons b bits ih =>
    rw [jumpLoop_cons, jumpLoop_cons, ih, ih (if b then _ else _)]
    cases b <;> simp [Quad.xor_assoc]

@[simp] theorem length_wordBits (w : Word) : (wordBits w).length = 64 := by simp [wordBits]

/-! ### SplitMix64 -/

theorem smstep_fst (s : Word) : (smstep s).1 = s + GAMMA := (rfl)

theorem smstep_snd (s : Word) : (smstep s).2 = mix64 (s + GAMMA) := (rfl)

@[simp] theorem smgenLoop_zero (s : Word) : smgenLoop 0 s = (s, []) := (rfl)

theorem smgenLoop_succ (n : Nat) (s : Word) :
    smgenLoop (n + 1) s =
      ((smgenLoop n (smstep s).1).1, (smstep s).2 :: (smgenLoop n (smstep s).1).2) := (rfl)

/-- SMGEN returns as many words as its count says. -/
@[simp] theorem length_smgenLoop (n : Nat) (s : Word) : (smgenLoop n s).2.length = n := by
  induction n generalizing s with
  | zero => rfl
  | succ n ih => simp [smgenLoop_succ, ih]

/-- The loop cut in two: the second part goes on where the first stopped. -/
theorem smgenLoop_add (m n : Nat) (s : Word) :
    smgenLoop (m + n) s =
      ((smgenLoop n (smgenLoop m s).1).1,
        (smgenLoop m s).2 ++ (smgenLoop n (smgenLoop m s).1).2) := by
  induction m generalizing s with
  | zero => simp
  | succ m ih => rw [Nat.succ_add, smgenLoop_succ, smgenLoop_succ, ih]; simp

end Machine

end Sys2Proof
end

