-- ==== Sys2Proof/Laws/Decode.lean ====
section
/-! SUPPORT. The bits and the fields of a packed command word, the values of a field, and the count
that a decoded SMGEN can have. -/

namespace Sys2Proof

/-- Every bit of a packed word (R70): which field it comes from. -/
theorem getLsbD_packFields (opc : BitVec 8) (var : BitVec 2) (n : BitVec 8) (i : Nat) :
    (packFields opc var n).getLsbD i =
      if i < 8 then opc.getLsbD i
      else if i < 10 then var.getLsbD (i - 8)
      else if i < 16 then false
      else if i < 24 then n.getLsbD (i - 16) else false := by
  show BitVec.getLsbD (w := 8 + 8 + 6 + 2 + 8) (0#8 ++ n ++ 0#6 ++ var ++ opc) i = _
  simp only [BitVec.getLsbD_append, BitVec.getLsbD_zero]
  by_cases h8 : i < 8
  · simp [h8]
  by_cases h10 : i < 10
  · simp [h8, h10, show i - 8 < 2 by omega]
  by_cases h16 : i < 16
  · simp [h8, h10, h16, show ¬i - 8 < 2 by omega, show i - 8 - 2 < 6 by omega]
  by_cases h24 : i < 24
  · simp [h8, h10, h16, h24, show ¬i - 8 < 2 by omega, show ¬i - 8 - 2 < 6 by omega,
      show i - 8 - 2 - 6 = i - 16 by omega, show i - 16 < 8 by omega]
  · simp [h8, h10, h16, h24, show ¬i - 8 < 2 by omega, show ¬i - 8 - 2 < 6 by omega,
      show ¬i - 8 - 2 - 6 < 8 by omega]

@[simp] theorem fieldOPC_packFields (opc : BitVec 8) (var : BitVec 2) (n : BitVec 8) :
    fieldOPC (packFields opc var n) = opc := by
  refine BitVec.eq_of_getLsbD_eq fun i hi => ?_
  simp [fieldOPC, getLsbD_packFields, hi]

@[simp] theorem fieldVAR_packFields (opc : BitVec 8) (var : BitVec 2) (n : BitVec 8) :
    fieldVAR (packFields opc var n) = var := by
  refine BitVec.eq_of_getLsbD_eq fun i hi => ?_
  simp [fieldVAR, getLsbD_packFields, hi, show 8 + i < 10 by omega]

@[simp] theorem fieldN_packFields (opc : BitVec 8) (var : BitVec 2) (n : BitVec 8) :
    fieldN (packFields opc var n) = n := by
  refine BitVec.eq_of_getLsbD_eq fun i hi => ?_
  simp [fieldN, getLsbD_packFields, hi, show ¬16 + i < 8 by omega, show ¬16 + i < 10 by omega,
    show ¬16 + i < 16 by omega, show 16 + i < 24 by omega]

@[simp] theorem reservedNHigh_packFields (opc : BitVec 8) (var : BitVec 2) (n : BitVec 8) :
    reservedNHigh (packFields opc var n) = 0 := by
  refine BitVec.eq_of_getLsbD_eq fun i hi => ?_
  simp [reservedNHigh, getLsbD_packFields, show ¬24 + i < 8 by omega, show ¬24 + i < 10 by omega,
    show ¬24 + i < 16 by omega]

@[simp] theorem reservedNLow_packFields (opc n : BitVec 8) :
    reservedNLow (packFields opc 0 n) = 0 := by
  refine BitVec.eq_of_getLsbD_eq fun i hi => ?_
  simp [reservedNLow, getLsbD_packFields, show 8 + i < 16 by omega]

/-- The table of format Z gives the command of an opcode, and that command's word holds the opcode and
nothing else (R71). -/
theorem lookup_zCommands {o : BitVec 8} {i : Instr} (h : zCommands.lookup o = some i) :
    i.WellFormed ∧ encode i = packFields o 0 0 ∧ (∀ n, i ≠ .smgen n) ∧ o ≠ 0x12 ∧ o ≠ 0x22 := by
  have hall : ∀ o : BitVec 8, ∀ p ∈ zCommands, zCommands.lookup o = some p.2 →
      p.2.WellFormed ∧ encode p.2 = packFields o 0 0 ∧ o ≠ 0x12 ∧ o ≠ 0x22 := by decide +kernel
  have hmem : ∃ p ∈ zCommands, p.2 = i := by
    obtain ⟨l, _, hl, _⟩ := List.lookup_eq_some_iff.1 h
    exact ⟨(o, i), by rw [hl]; simp, rfl⟩
  obtain ⟨p, hp, rfl⟩ := hmem
  obtain ⟨h1, h2, h3, h4⟩ := hall o p hp h
  exact ⟨h1, h2, fun n hn => by revert p; simp [zCommands], h3, h4⟩

/-- THE INVERSION OF `decode`, of a legal word: which format it has, and its fields. -/
theorem decode_cases {w : CmdWord} {i : Instr} (h : decode w = .instr i) :
    (fieldOPC w = 0x12 ∧ reservedNHigh w = 0 ∧ reservedNLow w = 0 ∧ i = .smgen (fieldN w).toNat) ∨
    (fieldOPC w = 0x22 ∧ reservedV w = 0 ∧ ∃ v, variantOf (fieldVAR w) = some v ∧ i = v.xnext) ∨
    (zCommands.lookup (fieldOPC w) = some i ∧ reservedZ w = 0) := by
  unfold decode at h
  split at h
  · rename_i ho
    unfold decodeN at h
    split at h
    · rename_i hr; cases h; exact .inl ⟨ho, hr.1, hr.2, rfl⟩
    · cases h
  split at h
  · rename_i ho
    unfold decodeV at h
    split at h
    · split at h
      · cases h; exact .inr (.inl ⟨ho, ‹_›, _, ‹_›, rfl⟩)
      · cases h
    · cases h
  split at h
  · unfold decodeZ at h
    split at h
    · cases h; exact .inr (.inr ⟨‹_›, ‹_›⟩)
    · cases h
  · cases h

/-- SMGEN's count comes from an 8-bit field (R79). -/
theorem decode_smgen_count_lt {w : CmdWord} {n : Nat} (h : decode w = .instr (.smgen n)) :
    n < 256 := by
  rcases decode_cases h with ⟨_, _, _, hi⟩ | ⟨_, _, v, _, hi⟩ | ⟨hl, _⟩
  · cases hi; exact (fieldN w).isLt
  · cases v <;> cases hi
  · exact absurd rfl ((lookup_zCommands hl).2.2.1 n)

end Sys2Proof
end

