-- ==== Sys2Proof/Laws/State.lean ====
section
/-! SUPPORT. What each named update of the state leaves in each field: one lemma per field per update,
so that no proof unfolds a record update. Each is true by `rfl`; the parentheses make simp use it as an
equation and not by computing, which on a jump would unroll 256 steps in the kernel. -/

namespace Sys2Proof.Machine

variable (s : State)

/-! ### `respond` -/

@[simp] theorem State.respond_sm (ws : List Word) : (s.respond ws).sm = s.sm := (rfl)
@[simp] theorem State.respond_xs (ws : List Word) : (s.respond ws).xs = s.xs := (rfl)
@[simp] theorem State.respond_xv (ws : List Word) : (s.respond ws).xv = s.xv := (rfl)
@[simp] theorem State.respond_op (ws : List Word) : (s.respond ws).op = s.op := (rfl)
@[simp] theorem State.respond_pending (ws : List Word) : (s.respond ws).pending = s.pending := (rfl)
@[simp] theorem State.respond_responses (ws : List Word) :
    (s.respond ws).responses = s.responses ++ [⟨.ok, ws⟩] := (rfl)
@[simp] theorem State.respond_resets (ws : List Word) : (s.respond ws).resets = s.resets := (rfl)

/-! ### `raise` -/

@[simp] theorem State.raise_sm (e : Status) : (s.raise e).sm = s.sm := (rfl)
@[simp] theorem State.raise_xs (e : Status) : (s.raise e).xs = s.xs := (rfl)
@[simp] theorem State.raise_xv (e : Status) : (s.raise e).xv = s.xv := (rfl)
@[simp] theorem State.raise_op (e : Status) : (s.raise e).op = s.op := (rfl)
@[simp] theorem State.raise_pending (e : Status) : (s.raise e).pending = s.pending := (rfl)
@[simp] theorem State.raise_responses (e : Status) :
    (s.raise e).responses = s.responses ++ [⟨e, []⟩] := (rfl)
@[simp] theorem State.raise_resets (e : Status) : (s.raise e).resets = s.resets := (rfl)

/-! ### `respondWith` -/

@[simp] theorem State.respondWith_sm (r : Response) : (s.respondWith r).sm = s.sm := (rfl)
@[simp] theorem State.respondWith_xs (r : Response) : (s.respondWith r).xs = s.xs := (rfl)
@[simp] theorem State.respondWith_xv (r : Response) : (s.respondWith r).xv = s.xv := (rfl)
@[simp] theorem State.respondWith_op (r : Response) : (s.respondWith r).op = s.op := (rfl)
@[simp] theorem State.respondWith_pending (r : Response) :
    (s.respondWith r).pending = s.pending := (rfl)
@[simp] theorem State.respondWith_responses (r : Response) :
    (s.respondWith r).responses = s.responses ++ [r] := (rfl)
@[simp] theorem State.respondWith_resets (r : Response) : (s.respondWith r).resets = s.resets := (rfl)

/-! ### `writeSM` -/

@[simp] theorem State.writeSM_sm (v : Word) : (s.writeSM v).sm = v := (rfl)
@[simp] theorem State.writeSM_xs (v : Word) : (s.writeSM v).xs = s.xs := (rfl)
@[simp] theorem State.writeSM_xv (v : Word) : (s.writeSM v).xv = s.xv := (rfl)
@[simp] theorem State.writeSM_op (v : Word) : (s.writeSM v).op = s.op := (rfl)
@[simp] theorem State.writeSM_pending (v : Word) : (s.writeSM v).pending = s.pending := (rfl)
@[simp] theorem State.writeSM_responses (v : Word) : (s.writeSM v).responses = s.responses := (rfl)
@[simp] theorem State.writeSM_resets (v : Word) : (s.writeSM v).resets = s.resets := (rfl)

/-! ### `writeS` -/

@[simp] theorem State.writeS_sm (q : Quad) : (s.writeS q).sm = s.sm := (rfl)
@[simp] theorem State.writeS_xs (q : Quad) : (s.writeS q).xs = q := (rfl)
@[simp] theorem State.writeS_xv (q : Quad) : (s.writeS q).xv = s.xv := (rfl)
@[simp] theorem State.writeS_op (q : Quad) : (s.writeS q).op = s.op := (rfl)
@[simp] theorem State.writeS_pending (q : Quad) : (s.writeS q).pending = s.pending := (rfl)
@[simp] theorem State.writeS_responses (q : Quad) : (s.writeS q).responses = s.responses := (rfl)
@[simp] theorem State.writeS_resets (q : Quad) : (s.writeS q).resets = s.resets := (rfl)

/-! ### `writeXV` -/

@[simp] theorem State.writeXV_sm (b : Bool) : (s.writeXV b).sm = s.sm := (rfl)
@[simp] theorem State.writeXV_xs (b : Bool) : (s.writeXV b).xs = s.xs := (rfl)
@[simp] theorem State.writeXV_xv (b : Bool) : (s.writeXV b).xv = b := (rfl)
@[simp] theorem State.writeXV_op (b : Bool) : (s.writeXV b).op = s.op := (rfl)
@[simp] theorem State.writeXV_pending (b : Bool) : (s.writeXV b).pending = s.pending := (rfl)
@[simp] theorem State.writeXV_responses (b : Bool) : (s.writeXV b).responses = s.responses := (rfl)
@[simp] theorem State.writeXV_resets (b : Bool) : (s.writeXV b).resets = s.resets := (rfl)

/-! ### `loadS` -/

@[simp] theorem State.loadS_sm (q : Quad) : (s.loadS q).sm = s.sm := (rfl)
@[simp] theorem State.loadS_xs (q : Quad) : (s.loadS q).xs = q := (rfl)
@[simp] theorem State.loadS_xv (q : Quad) : (s.loadS q).xv = true := (rfl)
@[simp] theorem State.loadS_op (q : Quad) : (s.loadS q).op = s.op := (rfl)
@[simp] theorem State.loadS_pending (q : Quad) : (s.loadS q).pending = s.pending := (rfl)
@[simp] theorem State.loadS_responses (q : Quad) : (s.loadS q).responses = s.responses := (rfl)
@[simp] theorem State.loadS_resets (q : Quad) : (s.loadS q).resets = s.resets := (rfl)

/-! ### `xnext` -/

@[simp] theorem State.xnext_sm (v : Variant) : (s.xnext v).sm = s.sm := (rfl)
@[simp] theorem State.xnext_xs (v : Variant) : (s.xnext v).xs = transition s.xs := (rfl)
@[simp] theorem State.xnext_xv (v : Variant) : (s.xnext v).xv = s.xv := (rfl)
@[simp] theorem State.xnext_op (v : Variant) : (s.xnext v).op = s.op := (rfl)
@[simp] theorem State.xnext_pending (v : Variant) : (s.xnext v).pending = s.pending := (rfl)
@[simp] theorem State.xnext_responses (v : Variant) :
    (s.xnext v).responses = s.responses ++ [⟨.ok, [outOf v s.xs]⟩] := (rfl)
@[simp] theorem State.xnext_resets (v : Variant) : (s.xnext v).resets = s.resets := (rfl)

/-! ### `accept` -/

@[simp] theorem State.accept_sm (c : Command) (rest : List HostMove) :
    (s.accept c rest).sm = s.sm := (rfl)
@[simp] theorem State.accept_xs (c : Command) (rest : List HostMove) :
    (s.accept c rest).xs = s.xs := (rfl)
@[simp] theorem State.accept_xv (c : Command) (rest : List HostMove) :
    (s.accept c rest).xv = s.xv := (rfl)
@[simp] theorem State.accept_op (c : Command) (rest : List HostMove) :
    (s.accept c rest).op = c.lanes := (rfl)
@[simp] theorem State.accept_pending (c : Command) (rest : List HostMove) :
    (s.accept c rest).pending = rest := (rfl)
@[simp] theorem State.accept_responses (c : Command) (rest : List HostMove) :
    (s.accept c rest).responses = s.responses := (rfl)
@[simp] theorem State.accept_resets (c : Command) (rest : List HostMove) :
    (s.accept c rest).resets = s.resets := (rfl)

/-! ### `resetUnit` -/

@[simp] theorem State.resetUnit_sm (rest : List HostMove) :
    (s.resetUnit rest).sm = DEFAULT_SEED := (rfl)
@[simp] theorem State.resetUnit_xs (rest : List HostMove) :
    (s.resetUnit rest).xs = Config.resetS s.resets := (rfl)
@[simp] theorem State.resetUnit_xv (rest : List HostMove) : (s.resetUnit rest).xv = false := (rfl)
@[simp] theorem State.resetUnit_op (rest : List HostMove) : (s.resetUnit rest).op = Quad.zero := (rfl)
@[simp] theorem State.resetUnit_pending (rest : List HostMove) :
    (s.resetUnit rest).pending = rest := (rfl)
@[simp] theorem State.resetUnit_responses (rest : List HostMove) :
    (s.resetUnit rest).responses = s.responses := (rfl)
@[simp] theorem State.resetUnit_resets (rest : List HostMove) :
    (s.resetUnit rest).resets = s.resets + 1 := (rfl)

/-! ### The reset state -/

@[simp] theorem State.reset_sm : State.reset.sm = DEFAULT_SEED := (rfl)
@[simp] theorem State.reset_xs : State.reset.xs = Quad.zero := (rfl)
@[simp] theorem State.reset_xv : State.reset.xv = false := (rfl)
@[simp] theorem State.reset_op : State.reset.op = Quad.zero := (rfl)
@[simp] theorem State.reset_pending : State.reset.pending = [] := (rfl)
@[simp] theorem State.reset_responses : State.reset.responses = [] := (rfl)
@[simp] theorem State.reset_resets : State.reset.resets = 0 := (rfl)

/-! ### Reads -/

@[simp] theorem State.lane0_eq : s.lane0 = s.op.w0 := (rfl)
@[simp] theorem State.lanes_eq : s.lanes = s.op := (rfl)
@[simp] theorem State.statusWord_eq : s.statusWord = boolWord s.xv := (rfl)

end Sys2Proof.Machine
end

