-- ==== Sys2Proof/Laws/Ops.lean ====
section
/-! SUPPORT. For each shared operation, what it can do, said once; and for `exec`, the one form that
every command's outcome has. -/

namespace Sys2Proof.Machine

@[simp] theorem requireLoaded_loaded (s done : State) (h : s.xv = true) :
    requireLoaded s done = .next done := by simp [requireLoaded, h]

@[simp] theorem requireLoaded_unloaded (s done : State) (h : s.xv = false) :
    requireLoaded s done = .next (s.raise .errUninit) := by simp [requireLoaded, h]

/-- The check answers a next state, and which of two. -/
theorem requireLoaded_cases (s done : State) :
    s.xv = true ∧ requireLoaded s done = .next done ∨
      s.xv = false ∧ requireLoaded s done = .next (s.raise .errUninit) := by
  cases h : s.xv <;> simp [h]

/-- What a command does when it is executed (it does not need `S`, or `S` is loaded): the registers it
leaves and the data words it responds with. -/
def effect (i : Instr) (s : State) : State :=
  match i with
  | .smseed => (s.writeSM s.lane0).respond []
  | .smnext => (s.writeSM (smstep s.sm).1).respond [(smstep s.sm).2]
  | .smgen n => (s.writeSM (smgenLoop n s.sm).1).respond (smgenLoop n s.sm).2
  | .smsave => s.respond [s.sm]
  | .smeq => s.respond [boolWord (s.sm == s.lane0)]
  | .xseed => (s.loadS (seedExpand s.lane0)).respond []
  | .xload => (s.loadS s.lanes).respond []
  | .xnextP => s.xnext .plus
  | .xnextPP => s.xnext .plusPlus
  | .xnextSS => s.xnext .starStar
  | .xjump => (s.writeS (jumpBy JUMP_POLY s.xs)).respond []
  | .xljump => (s.writeS (jumpBy LJUMP_POLY s.xs)).respond []
  | .xsave => s.respond s.xs.toList
  | .xeq => s.respond [boolWord (s.xs == s.lanes)]
  | .gmin => s.respond [0x0000000000000000]
  | .gmax => s.respond [0xffffffffffffffff]
  | .u2d => s.respond [u2dBits s.lane0]
  | .stat => s.respond [s.statusWord]

/-- THE INVERSION OF `exec`: a command that needs `S` on an unloaded unit is answered ERR_UNINIT and has
no effect; every other has its effect. -/
theorem exec_eq (i : Instr) (s : State) :
    exec i s = .next (if needsXV i && !s.xv then s.raise .errUninit else effect i s) := by
  cases i <;> cases h : s.xv <;>
    simp [exec, needsXV, effect, requireLoaded, h, execSmseed, execSmnext, execSmgen, execSmsave,
      execSmeq, execXseed, execXload, execXnextP, execXnextPP, execXnextSS, execXjump, execXljump,
      execXsave, execXeq, execGmin, execGmax, execU2d, execStat]

/-- An executed command adds one response, OK, with the number of data words R53 gives it. -/
theorem effect_responses (i : Instr) (s : State) :
    ∃ ws : List Word, ws.length = dataWords i ∧
      (effect i s).responses = s.responses ++ [⟨.ok, ws⟩] := by
  cases i <;> simp [effect, dataWords]

/-- The data words of an executed command's response. -/
def effectWords (i : Instr) (s : State) : List Word :=
  match i with
  | .smseed | .xseed | .xload | .xjump | .xljump => []
  | .smnext => [(smstep s.sm).2]
  | .smgen n => (smgenLoop n s.sm).2
  | .smsave => [s.sm]
  | .smeq => [boolWord (s.sm == s.lane0)]
  | .xnextP => [outOf .plus s.xs]
  | .xnextPP => [outOf .plusPlus s.xs]
  | .xnextSS => [outOf .starStar s.xs]
  | .xsave => s.xs.toList
  | .xeq => [boolWord (s.xs == s.lanes)]
  | .gmin => [0x0000000000000000]
  | .gmax => [0xffffffffffffffff]
  | .u2d => [u2dBits s.lane0]
  | .stat => [s.statusWord]

/-- An executed command adds one response, OK, with those words. -/
theorem effect_responses_eq (i : Instr) (s : State) :
    (effect i s).responses = s.responses ++ [⟨.ok, effectWords i s⟩] := by
  cases i <;> simp [effect, effectWords]

/-- An executed command leaves `XV` set by a load and as it was otherwise. -/
theorem effect_xv (i : Instr) (s : State) : (effect i s).xv = (loadsS i || s.xv) := by
  cases i <;> simp [effect, loadsS]

/-- What an executed command leaves and answers depends on `SM`, `XV`, the lanes and, where it needs
them, the words `S` alone. -/
theorem effect_congr (i : Instr) {s t : State} (hsm : s.sm = t.sm) (hxv : s.xv = t.xv)
    (hop : s.op = t.op) (hxs : needsXV i = true → s.xs = t.xs) :
    effectWords i s = effectWords i t ∧ (effect i s).sm = (effect i t).sm ∧
      ((effect i s).xs = (effect i t).xs ∨
        needsXV i = false ∧ loadsS i = false ∧ (effect i s).xs = s.xs ∧ (effect i t).xs = t.xs) := by
  cases i <;> simp_all [effect, effectWords, needsXV, loadsS]

/-- An executed command touches neither port but to respond. -/
theorem effect_frame (i : Instr) (s : State) :
    (effect i s).op = s.op ∧ (effect i s).pending = s.pending ∧ (effect i s).resets = s.resets := by
  cases i <;> simp [effect]

end Sys2Proof.Machine
end

