-- ==== Sys2Proof/Laws/PerInstr.lean ====
section
/-! SUPPORT. A fact about every command as syntax: the word it encodes to is of its own row of the
opcode table (spec/30_encoding.md R71 to R74), one lemma per constructor. -/

namespace Sys2Proof.Laws.RowMatches

/-- The word of a well-formed command agrees with its row's pattern under its row's mask. -/
def Statement (i : Instr) : Prop := i.WellFormed → encode i &&& i.row.mask = i.row.pattern

theorem smseed : Statement .smseed := fun _ => by decide
theorem smnext : Statement .smnext := fun _ => by decide
theorem smgen (n : Nat) : Statement (.smgen n) := fun _ => by
  refine BitVec.eq_of_getLsbD_eq fun i hi => ?_
  rw [encode, BitVec.getLsbD_and, getLsbD_packFields]
  show _ = BitVec.getLsbD (0x00000012#32) i
  interval_cases i <;> simp [Instr.row]
theorem smsave : Statement .smsave := fun _ => by decide
theorem smeq : Statement .smeq := fun _ => by decide
theorem xseed : Statement .xseed := fun _ => by decide
theorem xload : Statement .xload := fun _ => by decide
theorem xnextP : Statement .xnextP := fun _ => by decide
theorem xnextPP : Statement .xnextPP := fun _ => by decide
theorem xnextSS : Statement .xnextSS := fun _ => by decide
theorem xjump : Statement .xjump := fun _ => by decide
theorem xljump : Statement .xljump := fun _ => by decide
theorem xsave : Statement .xsave := fun _ => by decide
theorem xeq : Statement .xeq := fun _ => by decide
theorem gmin : Statement .gmin := fun _ => by decide
theorem gmax : Statement .gmax := fun _ => by decide
theorem u2d : Statement .u2d := fun _ => by decide
theorem stat : Statement .stat := fun _ => by decide

end Sys2Proof.Laws.RowMatches
end

