-- ==== Sys2Proof/Laws/Step.lean ====
section
/-! SUPPORT. What one step can do, said once; every claim about runs goes through it. -/

namespace Sys2Proof.Machine

/-- What the unit answers to an accepted command word. -/
theorem runWord_eq (w : CmdWord) (s : State) :
    runWord w s =
      .next (match decode w with
        | .instr i => if needsXV i && !s.xv then s.raise .errUninit else effect i s
        | .illegal _ => s.raise .errIllegal) := by
  unfold runWord
  split <;> simp [exec_eq, *]

/-- An accepted command word gets one response, of the form R53 gives it. -/
theorem runWord_responds (w : CmdWord) (s : State) :
    ∃ t r, runWord w s = .next t ∧ t.responses = s.responses ++ [r] ∧ r.wellShaped = true := by
  cases h : decode w with
  | illegal why =>
    rw [runWord_eq, h]
    exact ⟨_, ⟨.errIllegal, []⟩, rfl, by simp, rfl⟩
  | instr i =>
    rw [runWord_eq, h]
    by_cases hx : (needsXV i && !s.xv) = true
    · exact ⟨_, ⟨.errUninit, []⟩, rfl, by simp [hx], rfl⟩
    · obtain ⟨ws, hlen, hresp⟩ := effect_responses i s
      refine ⟨_, ⟨.ok, ws⟩, rfl, by simp [hx, hresp], ?_⟩
      have : ws.length ≤ 255 := by
        rw [hlen]
        cases i <;> simp only [dataWords] <;> try omega
        have := decode_smgen_count_lt h
        omega
      simpa [Response.wellShaped] using this

/-- THE INVERSION OF `step`: which move it took and what that left. -/
theorem step_cases {s t : State} (h : step s = .next t) :
    (s.pending = [] ∧ t = s) ∨
    (∃ c rest, s.pending = .command c :: rest ∧ runWord c.word (s.accept c rest) = .next t) ∨
    (∃ rest, (s.pending = .reset :: rest ∨ ∃ c, s.pending = .resetDuring c :: rest) ∧
      t = s.resetUnit rest) := by
  unfold step at h
  split at h
  · rename_i hp; exact .inl ⟨hp, by cases h; rfl⟩
  · rename_i c rest hp; exact .inr (.inl ⟨c, rest, hp, h⟩)
  · rename_i rest hp; exact .inr (.inr ⟨rest, .inl hp, by cases h; rfl⟩)
  · rename_i c rest hp; exact .inr (.inr ⟨rest, .inr ⟨c, hp⟩, by cases h; rfl⟩)

end Sys2Proof.Machine
end

