-- ==== Sys2Proof/Tests/Slice0.lean ====
section
/-! SUPPORT. The model's own tests. Every expected value is the spec's: the words of
spec/30_encoding.md R70 to R75 written out bit by bit, and the vectors V1 to V48 of
spec/95_test_vectors.md. Then one witness for each statement that has hypotheses. -/

open Sys2Proof Sys2Proof.Machine

namespace Sys2Proof.Tests

/-! ### Well-formedness: the check refuses a count that has no field (R79, K14) -/

theorem test_wf_refuses_count_256 : ¬ (Instr.smgen 256).WellFormed := by decide
theorem test_wf_admits_count_255 : (Instr.smgen 255).WellFormed := by decide

/-! ### Decoding: words written out from the fields RZ2, N, RZ1 and VAR, OPC (R70 to R74) -/

theorem test_decode_smseed :
    decode (0b00000000#8 ++ 0b00000000#8 ++ 0b00000000#8 ++ 0b00010000#8) = .instr .smseed := by decide
theorem test_decode_smnext :
    decode (0b00000000#8 ++ 0b00000000#8 ++ 0b00000000#8 ++ 0b00010001#8) = .instr .smnext := by decide
theorem test_decode_smgen :
    decode (0b00000000#8 ++ 0b10000101#8 ++ 0b00000000#8 ++ 0b00010010#8) = .instr (.smgen 133) := by
  decide
theorem test_decode_smsave :
    decode (0b00000000#8 ++ 0b00000000#8 ++ 0b00000000#8 ++ 0b00010011#8) = .instr .smsave := by decide
theorem test_decode_smeq :
    decode (0b00000000#8 ++ 0b00000000#8 ++ 0b00000000#8 ++ 0b00010100#8) = .instr .smeq := by decide
theorem test_decode_xseed :
    decode (0b00000000#8 ++ 0b00000000#8 ++ 0b00000000#8 ++ 0b00100000#8) = .instr .xseed := by decide
theorem test_decode_xload :
    decode (0b00000000#8 ++ 0b00000000#8 ++ 0b00000000#8 ++ 0b00100001#8) = .instr .xload := by decide
theorem test_decode_xnextP :
    decode (0b00000000#8 ++ 0b00000000#8 ++ 0b00000000#8 ++ 0b00100010#8) = .instr .xnextP := by decide
theorem test_decode_xnextPP :
    decode (0b00000000#8 ++ 0b00000000#8 ++ 0b00000001#8 ++ 0b00100010#8) = .instr .xnextPP := by decide
theorem test_decode_xnextSS :
    decode (0b00000000#8 ++ 0b00000000#8 ++ 0b00000010#8 ++ 0b00100010#8) = .instr .xnextSS := by decide
theorem test_decode_xjump :
    decode (0b00000000#8 ++ 0b00000000#8 ++ 0b00000000#8 ++ 0b00100011#8) = .instr .xjump := by decide
theorem test_decode_xljump :
    decode (0b00000000#8 ++ 0b00000000#8 ++ 0b00000000#8 ++ 0b00100100#8) = .instr .xljump := by decide
theorem test_decode_xsave :
    decode (0b00000000#8 ++ 0b00000000#8 ++ 0b00000000#8 ++ 0b00100101#8) = .instr .xsave := by decide
theorem test_decode_xeq :
    decode (0b00000000#8 ++ 0b00000000#8 ++ 0b00000000#8 ++ 0b00100110#8) = .instr .xeq := by decide
theorem test_decode_gmin :
    decode (0b00000000#8 ++ 0b00000000#8 ++ 0b00000000#8 ++ 0b00110000#8) = .instr .gmin := by decide
theorem test_decode_gmax :
    decode (0b00000000#8 ++ 0b00000000#8 ++ 0b00000000#8 ++ 0b00110001#8) = .instr .gmax := by decide
theorem test_decode_u2d :
    decode (0b00000000#8 ++ 0b00000000#8 ++ 0b00000000#8 ++ 0b00110010#8) = .instr .u2d := by decide
theorem test_decode_stat :
    decode (0b00000000#8 ++ 0b00000000#8 ++ 0b00000000#8 ++ 0b00110011#8) = .instr .stat := by decide

/-- V45: unassigned opcodes. -/
theorem test_decode_unassigned :
    [0x00000000#32, 0xffffffff, 0x15, 0x1f, 0x27, 0x34, 0x01].map decode =
      List.replicate 7 (.illegal .unassignedOpcode) := by decide

/-- V45: a reserved bit is one, in each format, at the edges of each reserved field. -/
theorem test_decode_reserved :
    [0x00000110#32, 0x00010010, 0x01000012, 0x00000112, 0x00008012, 0x00000422, 0x00010022,
      0x80000033, 0x00000133].map decode = List.replicate 9 (.illegal .reservedBits) := by decide

/-- V45: XNEXT with VAR = 3. -/
theorem test_decode_reserved_variant : decode 0x00000322 = .illegal .reservedVariant := by decide

/-- R55: the command word as stored bytes, the low byte first; the bytes after it are left. -/
theorem test_decode_bytes : decodeBytes [0x12, 0x00, 0x04, 0x00, 0x33] = (.instr (.smgen 4), [0x33]) ∧
    decodeBytes [0x12, 0x00, 0x04] = (.illegal .truncated, [0x12, 0x00, 0x04]) := by decide

theorem test_decodeTableWord : decodeTableWord 32 0x00ff0012 = some (.smgen 255) ∧
    decodeTableWord 32 0x00000222 = some .xnextSS ∧ decodeTableWord 32 0x00000322 = none := by decide

/-! ### Words and bytes (V16, R55) -/

theorem test_arithmetic : add64 0xffffffffffffffff 1 = 0 ∧ add64 0x61c8864680b583eb GAMMA = 0 ∧
    mul64 0x8000000000000000 2 = 0 ∧ mul64 GAMMA 0xbf58476d1ce4e5b9 = 0xd67411c46c86742d ∧
    shl 0x0000800000000000 17 = 0 ∧ shl 0x0000400000000000 17 = 0x8000000000000000 ∧
    shr 0xffffffffffffffff 11 = 0x001fffffffffffff ∧ shr 0x8000000000000000 63 = 1 := by decide

theorem test_rotl : rotl 0x8000000000000000 7 = 0x0000000000000040 ∧
    rotl 0x0123456789abcdef 45 = 0x79bde02468acf135 ∧
    rotl 0x0123456789abcdef 23 = 0xb3c4d5e6f78091a2 ∧
    rotl 0x0123456789abcdef 7 = 0x91a2b3c4d5e6f780 := by decide

/-- V17. -/
theorem test_mix64 : mix64 1 = 0x5692161d100b05e5 ∧ mix64 0xffffffffffffffff = 0xb4d055fcf2cbbd7b ∧
    mix64 0x8000000000000000 = 0x25c26ea579cea98a ∧ mix64 0x0123456789abcdef = 0xb2c058e4ebb5112c := by
  decide

theorem test_word_bytes : wordBytes 0x0123456789abcdef =
    [0xef, 0xcd, 0xab, 0x89, 0x67, 0x45, 0x23, 0x01] := by decide

/-! ### One step of the unit -/

/-- The state of a step that completes. -/
def state? : Result → Option State
  | .next s => some s
  | .fault _ => none
  | .refused _ => none

/-- What a step leaves where `s` takes a command of word `w` with these lanes: what it responded, and
`SM`, `S`, `XV`. -/
def answer (s : State) (w : CmdWord) (lanes : Quad) : Option (List Response × Word × Quad × Bool) :=
  (state? (step { s with pending := [.command ⟨w, lanes⟩] })).map fun t =>
    (t.responses, t.sm, t.xs, t.xv)

/-- A unit with that `SM`, not loaded. -/
def seeded (sm : Word) : State := { State.reset with sm := sm }

/-- A loaded unit, `SM` the default seed. -/
def loaded (q : Quad) : State := { State.reset with xs := q, xv := true }

/-- V47: SMSEED reads lane 0 and no other. -/
theorem test_smseed : answer State.reset 0x00000010 ⟨7, 8, 9, 10⟩ =
    some ([⟨.ok, []⟩], 7, Quad.zero, false) := by decide

/-- V21: the add wraps. -/
theorem test_smnext_wraps : answer (seeded 0xffffffffffffffff) 0x00000011 Quad.zero =
    some ([⟨.ok, [0xe4d971771b652c20]⟩], 0x9e3779b97f4a7c14, Quad.zero, false) := by decide

/-- V1: the source's own vector. -/
theorem test_smnext_source : answer (seeded 0) 0x00000011 Quad.zero =
    some ([⟨.ok, [16294208416658607535]⟩], 0x9e3779b97f4a7c15, Quad.zero, false) := by decide

/-- V23: SMGEN 4. -/
theorem test_smgen_four : answer (seeded 0) 0x00040012 Quad.zero =
    some ([⟨.ok, [0xe220a8397b1dcdaf, 0x6e789e6aa1b965f4, 0x06c45d188009454f, 0xf88bb8a8724c81ec]⟩],
      0x78dde6e5fd29f054, Quad.zero, false) := by decide +kernel

/-- V23: SMGEN 255, the largest count. -/
theorem test_smgen_255 : (answer (seeded 0) 0x00ff0012 Quad.zero).map
    (fun a => (a.1.map fun r => (r.status, r.data.length), a.2.1)) =
      some ([(.ok, 255)], 0x99423fc5cb3198eb) := by decide +kernel

/-- V24. -/
theorem test_smsave : answer State.reset 0x00000013 Quad.zero =
    some ([⟨.ok, [1234567890]⟩], 1234567890, Quad.zero, false) := by decide

/-- V24: one bit differs. -/
theorem test_smeq : answer (seeded 0x9e3779b97f4a7c15) 0x00000014 ⟨0x9e3779b97f4a7c14, 0, 0, 0⟩ =
      some ([⟨.ok, [0]⟩], 0x9e3779b97f4a7c15, Quad.zero, false) ∧
    answer (seeded 0x9e3779b97f4a7c15) 0x00000014 ⟨0x9e3779b97f4a7c15, 0, 0, 0⟩ =
      some ([⟨.ok, [1]⟩], 0x9e3779b97f4a7c15, Quad.zero, false) := by decide

/-- V25: seed 42; `SM` does not move. -/
theorem test_xseed : answer State.reset 0x00000020 ⟨42, 1, 1, 1⟩ =
    some ([⟨.ok, []⟩], 1234567890, ⟨0xbdd732262feb6e95, 0x28efe333b266f103, 0x47526757130f9f52,
      0x581ce1ff0e4ae394⟩, true) := by decide +kernel

/-- V26: the order of the lanes. -/
theorem test_xload : answer State.reset 0x00000021 ⟨1, 2, 3, 4⟩ =
    some ([⟨.ok, []⟩], 1234567890, ⟨1, 2, 3, 4⟩, true) := by decide

/-- V26: the zero state is loaded like any other. -/
theorem test_xload_zero : answer (loaded ⟨1, 2, 3, 4⟩) 0x00000021 Quad.zero =
    some ([⟨.ok, []⟩], 1234567890, Quad.zero, true) := by decide

/-- V27, V28, V29, call 3: three variants, one transition. -/
theorem test_xnextP : answer (loaded ⟨0x0000c00000000007, 0x40005, 0x40005, 0x18000000⟩) 0x00000022
    Quad.zero = some ([⟨.ok, [0x0000c00018000007]⟩], 1234567890, ⟨0x0000c00018040002,
      0x0000c00000000007, 0x0000c008000e0002, 0x8000a00000000300⟩, true) := by decide +kernel
theorem test_xnextPP : answer (loaded ⟨0x0000c00000000007, 0x40005, 0x40005, 0x18000000⟩) 0x00000122
    Quad.zero = some ([⟨.ok, [0x000cc00003800067]⟩], 1234567890, ⟨0x0000c00018040002,
      0x0000c00000000007, 0x0000c008000e0002, 0x8000a00000000300⟩, true) := by decide +kernel
theorem test_xnextSS : answer (loaded ⟨0x0000c00000000007, 0x40005, 0x40005, 0x18000000⟩) 0x00000222
    Quad.zero = some ([⟨.ok, [0x000000005a007080]⟩], 1234567890, ⟨0x0000c00018040002,
      0x0000c00000000007, 0x0000c008000e0002, 0x8000a00000000300⟩, true) := by decide +kernel

/-- V40, from (1, 0, 0, 0). -/
theorem test_xjump : answer (loaded ⟨1, 0, 0, 0⟩) 0x00000023 Quad.zero =
    some ([⟨.ok, []⟩], 1234567890, ⟨0x4e430587575d3eb3, 0x9109688ad329b960, 0x916b739d098c7648,
      0xccdd35ec385c77b3⟩, true) := by decide +kernel

/-- V40, from (1, 0, 0, 0). -/
theorem test_xljump : answer (loaded ⟨1, 0, 0, 0⟩) 0x00000024 Quad.zero =
    some ([⟨.ok, []⟩], 1234567890, ⟨0xce29becfff66233d, 0x2b7f3b62d5a6f2c5, 0x92363eacd09910b7,
      0xd92a5d2281721d7f⟩, true) := by decide +kernel

/-- V26: word 0 first. -/
theorem test_xsave : answer (loaded ⟨1, 2, 3, 4⟩) 0x00000025 Quad.zero =
    some ([⟨.ok, [1, 2, 3, 4]⟩], 1234567890, ⟨1, 2, 3, 4⟩, true) := by decide

/-- V26: position by position, all 64 bits. -/
theorem test_xeq :
    ([⟨4, 3, 2, 1⟩, ⟨1, 2, 3, 5⟩, ⟨0x8000000000000001, 2, 3, 4⟩, ⟨1, 2, 3, 4⟩].map fun q =>
      (answer (loaded ⟨1, 2, 3, 4⟩) 0x00000026 q).map Prod.fst) =
    [some [⟨.ok, [0]⟩], some [⟨.ok, [0]⟩], some [⟨.ok, [0]⟩], some [⟨.ok, [1]⟩]] := by decide

/-- V44. -/
theorem test_gmin : answer State.reset 0x00000030 ⟨9, 9, 9, 9⟩ =
    some ([⟨.ok, [0]⟩], 1234567890, Quad.zero, false) := by decide
theorem test_gmax : answer State.reset 0x00000031 ⟨9, 9, 9, 9⟩ =
    some ([⟨.ok, [0xffffffffffffffff]⟩], 1234567890, Quad.zero, false) := by decide

/-- V47: U2D reads lane 0 and no other. -/
theorem test_u2d : answer State.reset 0x00000032
    ⟨0x8000000000000000, 0xffffffffffffffff, 0xffffffffffffffff, 0xffffffffffffffff⟩ =
      some ([⟨.ok, [0x3fe0000000000000]⟩], 1234567890, Quad.zero, false) := by decide

/-- V43. -/
theorem test_u2d_table : u2dBits 0x0000000000000fff = 0x3ca0000000000000 ∧
    u2dBits 0x0010000000000000 = 0x3f30000000000000 ∧
    u2dBits 0xc000000000000000 = 0x3fe8000000000000 ∧
    u2dBits 0x0000000000000005 = 0 := by decide

/-- V44. -/
theorem test_stat : answer State.reset 0x00000033 Quad.zero =
      some ([⟨.ok, [0]⟩], 1234567890, Quad.zero, false) ∧
    answer (loaded Quad.zero) 0x00000033 Quad.zero =
      some ([⟨.ok, [1]⟩], 1234567890, Quad.zero, true) := by decide

/-- V48: the seven commands that need `S`, right after reset. -/
theorem test_uninit :
    ([0x00000022#32, 0x00000122, 0x00000222, 0x00000023, 0x00000024, 0x00000025, 0x00000026].map
      fun w => answer State.reset w Quad.zero) =
    List.replicate 7 (some ([⟨.errUninit, []⟩], 1234567890, Quad.zero, false)) := by decide +kernel

/-- V45, V46: a malformed word is answered ERR_ILLEGAL and has no effect. -/
theorem test_illegal_loaded :
    ([0x00000000#32, 0x00000322, 0x01000012, 0xffffffff, 0x00000422].map fun w =>
      answer (loaded ⟨1, 2, 3, 4⟩) w ⟨9, 9, 9, 9⟩) =
    List.replicate 5 (some ([⟨.errIllegal, []⟩], 1234567890, ⟨1, 2, 3, 4⟩, true)) := by
  decide +kernel

/-- V45: the same words before `S` is loaded; ERR_ILLEGAL comes before ERR_UNINIT (R195). -/
theorem test_illegal_unloaded :
    ([0x00000000#32, 0x00000322, 0x01000012, 0xffffffff, 0x00000422].map fun w =>
      answer State.reset w ⟨9, 9, 9, 9⟩) =
    List.replicate 5 (some ([⟨.errIllegal, []⟩], 1234567890, Quad.zero, false)) := by
  decide +kernel

/-- V48, reset after use: nothing survives, and nothing is answered. -/
theorem test_reset : (state? (step { loaded ⟨1, 2, 3, 4⟩ with sm := 99, pending := [.reset] })).map
    (fun t => (t.sm, t.xv, t.responses)) = some (1234567890, false, []) := by decide

/-- R221: a reset during a jump. -/
theorem test_reset_during : (state? (step { loaded ⟨1, 2, 3, 4⟩ with
      pending := [.resetDuring ⟨0x00000023, Quad.zero⟩, .reset] })).map
    (fun t => (t.sm, t.xv, t.responses, t.pending)) = some (1234567890, false, [], [.reset]) := by
  decide

theorem test_withFetchWord : (state? (step (State.reset.withFetchWord 32 0x00010012))).map
    (fun t => (t.responses, t.sm)) = some ([⟨.ok, [0x476948b80f74962f]⟩], 0x9e3779b9c8e07ee7) := by
  decide

/-! ### The response port and the assembler (R63, R80, R81) -/

theorem test_beats : (⟨.ok, [5, 6]⟩ : Response).beats = [⟨0, some 5, false⟩, ⟨0, some 6, true⟩] ∧
    (⟨.errUninit, []⟩ : Response).beats = [⟨2, none, true⟩] := by decide

theorem test_parse_four : parseLine "(a, b, c, d) <- SMGEN 4 # four words".toList =
    some ⟨.four ['a'] ['b'] ['c'] ['d'], .core (.smgen 4), []⟩ := by decide

theorem test_parse_operands : parseLine "x <- XEQ 0x2A, b, 3, 18446744073709551615".toList =
    some ⟨.one ['x'], .core .xeq,
      [.literal 42, .name ['b'], .literal 3, .literal 0xffffffffffffffff]⟩ := by decide +kernel

theorem test_parse_refuses : parseLine "XNEXT".toList = none ∧ parseLine "SMGEN 256".toList = none ∧
    parseLine "SMSEED 18446744073709551616".toList = none := by decide +kernel

/-- Log entry 16: what stands left of `<-` is a name as operands read it. -/
theorem test_parse_names : parseLine "5 <- STAT".toList = none ∧
    parseLine "(a, 2, c, d) <- XSAVE".toList = none ∧
    parseLine "x5 <- STAT".toList = some ⟨.one ['x', '5'], .core .stat, []⟩ := by decide +kernel

/-- Log entry 16: too few data words bind nothing. -/
theorem test_bind_short : Binding.bindWords (.one ['x']) .smseed [] [] = [] ∧
    Binding.bindWords (.four ['a'] ['b'] ['c'] ['d']) .xnextP [5] [] = [] := by decide

/-- Log entry 16: XNEXTD on an unloaded unit leaves its second line without an operand. -/
theorem test_listing_stops :
    runListing [⟨.nothing, .xnextd .plus, []⟩] [] State.reset = none := by decide

theorem test_assemble : CoreLine.assemble [] ⟨.nothing, .xload, [.literal 1, .literal 2, .literal 3,
    .literal 4]⟩ = some ⟨0x00000021, ⟨1, 2, 3, 4⟩⟩ ∧
    CoreLine.assemble [] ⟨.nothing, .u2d, [.name ['t']]⟩ = none := by decide

/-- R81 and P2: XSEEDVIA 42 leaves the `S` of XSEED 42, and `SM` of step 4. -/
theorem test_xseedvia : (runListing [⟨.nothing, .xseedvia, [.literal 42]⟩] [] State.reset).map
    (fun r => (r.2.sm, r.2.xs, r.2.xv)) = some (0x78dde6e5fd29f07e, ⟨0xbdd732262feb6e95,
      0x28efe333b266f103, 0x47526757130f9f52, 0x581ce1ff0e4ae394⟩, true) := by decide +kernel

/-! ### Witnesses: for each statement with hypotheses, a state and operands that meet them -/

/-- A loaded unit with `SM = 5`, lanes (5, 6, 7, 8) and a list of host moves to come. -/
def busy (moves : List HostMove) : State :=
  { sm := 5, xs := ⟨1, 2, 3, 4⟩, xv := true, op := ⟨5, 6, 7, 8⟩, pending := moves, responses := [],
    resets := 0 }

/-- STAT, XSAVE, SMGEN 255, XNEXT.P and an illegal word, as commands. -/
def cmdStat : Command := ⟨0x00000033, Quad.zero⟩
def cmdXsave : Command := ⟨0x00000025, Quad.zero⟩
def cmdSmgen : Command := ⟨0x00ff0012, Quad.zero⟩
def cmdXnext : Command := ⟨0x00000022, Quad.zero⟩
def cmdXload : Command := ⟨0x00000021, ⟨1, 2, 3, 4⟩⟩
def cmdIllegal : Command := ⟨0x00000322, ⟨9, 9, 9, 9⟩⟩

theorem witness_DecodeInvertsEncode :
    (Instr.smgen 0).WellFormed ∧ (Instr.smgen 255).WellFormed ∧ Instr.xljump.WellFormed := by decide

theorem witness_EncodeInvertsDecode : decode 0x00ff0012 = .instr (.smgen 255) ∧
    decode 0x00000222 = .instr .xnextSS := by decide

theorem witness_IllegalWordsAreExactlyThese : (busy [.command cmdIllegal, .reset]).pending =
    .command cmdIllegal :: [.reset] ∧ (decode cmdIllegal.word).isLegal = false := by decide

theorem witness_OpcodeRowsPartitionLegalWords : (Instr.smgen 0).row ∈ opcodeRows ∧
    0x00ff0012 &&& (Instr.smgen 0).row.mask = (Instr.smgen 0).row.pattern ∧
    decode 0x00ff0012 = .instr (.smgen 255) := by decide

theorem witness_ArithmeticWraps : (63 : Nat) < 64 ∧ 63 ≤ 63 := by decide

theorem witness_RotlMovesEachBit : 1 ≤ 1 ∧ 1 ≤ 63 ∧ 1 ≤ 63 ∧ 63 ≤ 63 ∧ 63 < 64 := by decide

theorem witness_StepVisitsEveryWord : 2 ^ 64 - 1 < 2 ^ 64 ∧
    (fun x => (smstep x).1)^[0] 7 = (fun x => (smstep x).1)^[0] 7 ∧
    (smstep ((fun x => (smstep x).1)^[0] 7)).2 = (smstep ((fun x => (smstep x).1)^[0] 7)).2 :=
  ⟨by decide, rfl, rfl⟩

theorem witness_SmgenClosedForm : 0 ≤ 255 ∧ 255 ≤ 255 := by decide

theorem witness_SeededSequencesAreDeterministic :
    (busy []).op.w0 = 5 ∧ (busy []).op = ⟨5, 6, 7, 8⟩ := by decide

theorem witness_SmsaveRespondsSm : (busy []).op.w0 = (seeded 5).sm := by decide

theorem witness_XnextRespondsFromOldState : (busy []).xv = true ∧ State.reset.xv = false ∧
    (Variant.starStar = .starStar ∧ (0x2d00 : Word) = 0x0000000000002d00) := by decide

theorem witness_VariantsShareOneStateSequence : (busy []).xv = true := by decide

theorem witness_ZeroStateIsIsolatedFixedPoint :
    (loaded Quad.zero).xv = true ∧ (loaded Quad.zero).xs = Quad.zero := by decide

theorem witness_XsaveRespondsTheFourWords : (loaded ⟨5, 6, 7, 8⟩).xv = true ∧
    State.reset.xv = false ∧ ∃ t, exec .xsave (loaded ⟨5, 6, 7, 8⟩) = .next t ∧
      t.responses = (loaded ⟨5, 6, 7, 8⟩).responses ++ [⟨.ok, (busy []).op.toList⟩] :=
  ⟨by decide, by decide, _, rfl, by decide⟩

theorem witness_XeqComparesWordByWord : (busy []).xv = true ∧ State.reset.xv = false := by decide
theorem witness_XjumpAppliesJumpPoly : (busy []).xv = true ∧ State.reset.xv = false := by decide
theorem witness_XljumpAppliesLjumpPoly : (busy []).xv = true ∧ State.reset.xv = false := by decide
theorem witness_XjumpSkips2Pow128Steps : (busy []).xv = true := by decide
theorem witness_XljumpSkips2Pow192Steps : (busy []).xv = true := by decide

theorem witness_DoubleDependsOnHigh53Bits :
    (0x7ff : Word).toNat ≤ (0x800 : Word).toNat := by decide

theorem witness_StepRunsTheDecodedCommand :
    (busy [.command cmdSmgen]).pending = .command cmdSmgen :: [] ∧
    decode cmdSmgen.word = .instr (.smgen 255) := by decide

theorem witness_NothingHappensWithoutAMove : (busy []).pending = [] := by decide

/-- Each of the three statuses: an illegal word, an unloaded unit, a loaded one. -/
theorem witness_StatusIsByPriority :
    (busy [.command cmdIllegal]).pending = .command cmdIllegal :: [] ∧
    (decode cmdIllegal.word).isLegal = false ∧
    (busy [.command cmdXnext]).pending = .command cmdXnext :: [] ∧
    decode cmdXnext.word = .instr .xnextP ∧ needsXV .xnextP = true ∧ State.reset.xv = false := by
  decide

/-- Both errors. -/
theorem witness_ErrorsChangeNoState :
    (∃ t, step (busy [.command cmdIllegal]) = .next t ∧
      t.responses = (busy [.command cmdIllegal]).responses ++ [⟨.errIllegal, []⟩]) ∧
    (∃ t, step { State.reset with pending := [.command cmdXnext] } = .next t ∧
      t.responses = State.reset.responses ++ [⟨.errUninit, []⟩]) ∧
    Status.errIllegal ≠ .ok ∧ Status.errUninit ≠ .ok :=
  ⟨⟨_, rfl, by decide⟩, ⟨_, rfl, by decide⟩, by decide, by decide⟩

theorem witness_ErrorsLeaveNoRecord :
    statusOf true cmdIllegal.word ≠ .ok ∧ statusOf false cmdXnext.word ≠ .ok := by decide

theorem witness_ResponseLengthIsFixed :
    (busy [.command cmdXsave]).pending = .command cmdXsave :: [] ∧
    decode cmdXsave.word = .instr .xsave ∧ decode cmdSmgen.word = .instr (.smgen 255) ∧
    decode cmdXload.word = .instr .xload ∧ decode cmdStat.word = .instr .stat ∧
    statusOf true cmdXsave.word = .ok ∧ statusOf true cmdXload.word = .ok ∧
    statusOf true cmdStat.word = .ok ∧ statusOf true cmdSmgen.word = .ok ∧
    statusOf true cmdIllegal.word ≠ .ok := by decide

theorem witness_XvChangesByLoadAndResetOnly :
    (∃ t, step (busy []) = .next t) ∧
    (∃ t, step { State.reset with pending := [.command cmdXload] } = .next t ∧ t.xv = true ∧
      decode cmdXload.word = .instr .xload) ∧
    (∃ t, step (busy [.reset]) = .next t) ∧ ∃ t, step (busy [.resetDuring cmdStat]) = .next t :=
  ⟨⟨_, rfl⟩, ⟨_, rfl, by decide, by decide⟩, ⟨_, rfl⟩, ⟨_, rfl⟩⟩

theorem witness_NoUninitOnceLoaded : (busy [.command cmdStat]).xv = true ∧
    (∀ m ∈ (busy [.command cmdStat]).pending, m.isCommand = true) ∧
    Responds 1 (busy [.command cmdStat]) [⟨.ok, [1]⟩] :=
  ⟨by decide, by decide, _, rfl, by decide⟩

theorem witness_CommandsWriteOnlyTheirRegisters :
    (∃ t, exec .stat (busy []) = .next t) ∧ writesSM .stat = false ∧ writesS .stat = false ∧
    loadsS .stat = false := ⟨⟨_, rfl⟩, by decide, by decide, by decide⟩

/-- Lanes that differ where the command does not read. -/
theorem witness_UnusedLanesHaveNoEffect : sameLanesRead .u2d ⟨1, 2, 3, 4⟩ ⟨1, 0, 0, 0⟩ ∧
    sameLanesRead .stat ⟨1, 2, 3, 4⟩ ⟨5, 6, 7, 8⟩ ∧
    sameLanesRead .xeq ⟨1, 2, 3, 4⟩ ⟨1, 2, 3, 4⟩ := by unfold sameLanesRead; decide

theorem witness_ReadersAreIdempotent : isReader .xeq = true ∧
    ∃ t r, exec .smnext (busy []) = .next t ∧ t.responses = (busy []).responses ++ [r] ∧
      r.data ≠ [] ∧ ¬ sameUnit (busy []) t :=
  ⟨by decide, _, _, rfl, rfl, by decide, by unfold sameUnit; decide⟩

theorem witness_ResponsesStayWellShaped :
    (busy [.command cmdXnext]).Inv ∧ ∃ t, step (busy [.command cmdXnext]) = .next t :=
  ⟨by unfold State.Inv; decide, _, rfl⟩

theorem witness_ResetContentsOfSUnobservable :
    Responds 1 { State.reset with xs := ⟨1, 2, 3, 4⟩, pending := [.command cmdXnext] }
      [⟨.errUninit, []⟩] := ⟨_, rfl, by decide⟩

/-- Two units whose `S` differ before it is loaded, and a run that loads it. -/
theorem witness_IndistinctUnitsAnswerAlike :
    Indistinct { State.reset with xs := ⟨1, 2, 3, 4⟩, pending := [.command cmdXload] }
      { State.reset with xs := ⟨5, 6, 7, 8⟩, pending := [.command cmdXload], resets := 3 } ∧
    Responds 1 { State.reset with xs := ⟨1, 2, 3, 4⟩, pending := [.command cmdXload] }
      [⟨.ok, []⟩] :=
  ⟨⟨rfl, rfl, by decide, rfl⟩, _, rfl, by decide⟩

theorem witness_CopiedUnitAnswersAlike : (busy []).xv = true ∧
    Responds 1 { busy [] with pending := [.command cmdStat] } [⟨.ok, [1]⟩] :=
  ⟨by decide, _, rfl, by decide⟩

theorem witness_BytesAreLittleEndian : 7 < 8 ∧ 3 < 4 := by decide

theorem witness_ResponseBeatsCarryTheWords :
    (⟨0, none, true⟩ : Beat) ∈ (⟨.ok, []⟩ : Response).beats := by decide

theorem witness_PseudoCommandsExpand : (busy []).xv = true := by decide

theorem witness_CoreLinesAssemble : Instr.xload.WellFormed ∧ 3 < 4 ∧
    (CoreLine.assemble [] ⟨.nothing, .xload, [.literal 1, .literal 2, .literal 3, .literal 4]⟩) =
      some ⟨0x00000021, ⟨1, 2, 3, 4⟩⟩ := by decide

end Sys2Proof.Tests
end

section
/-! PROOFS. The arithmetic of spec/00_scope.md: what each primitive of R8, R9, R11 and R12 is as a
number, where a rotation (R13) sends a bit, and the two obligations about them. -/

namespace Sys2Proof.Machine

@[simp] theorem toNat_add64 (a b : Word) :
    (add64 a b).toNat = (a.toNat + b.toNat) % 2 ^ 64 :=
  BitVec.toNat_add a b

@[simp] theorem toNat_mul64 (a b : Word) :
    (mul64 a b).toNat = (a.toNat * b.toNat) % 2 ^ 64 :=
  BitVec.toNat_mul a b

@[simp] theorem toNat_shl (x : Word) (n : Nat) :
    (shl x n).toNat = (x.toNat * 2 ^ n) % 2 ^ 64 := by
  rw [shl, BitVec.toNat_shiftLeft, Nat.shiftLeft_eq]

@[simp] theorem toNat_shr (x : Word) (n : Nat) : (shr x n).toNat = x.toNat / 2 ^ n := by
  rw [shr, BitVec.toNat_ushiftRight, Nat.shiftRight_eq_div_pow]

/-- The other direction of `getLsbD_rotl`: where a bit of the operand goes, not where a bit of the
result comes from. A bit either stays below bit 64 or comes back in at the low end. -/
theorem getLsbD_rotl_add_mod (x : Word) (n i : Nat) (hn : n < 64) (hi : i < 64) :
    (rotl x n).getLsbD ((i + n) % 64) = x.getLsbD i := by
  rw [getLsbD_rotl x n _ hn (Nat.mod_lt _ (by decide))]
  rcases Nat.lt_or_ge (i + n) 64 with hstay | hwrap
  · have hpos : (i + n) % 64 = i + n := Nat.mod_eq_of_lt hstay
    rw [hpos, if_neg (by omega), Nat.add_sub_cancel]
  · have hpos : (i + n) % 64 = i + n - 64 := by omega
    have hsource : 64 - n + (i + n - 64) = i := by omega
    rw [hpos, if_pos (by omega), hsource]

end Sys2Proof.Machine

namespace Sys2Proof.Proofs
open Sys2Proof.Machine

/-- Settles O7: the formula is the definition of `rotl`, and the bits move as
`getLsbD_rotl_add_mod` says. -/
theorem rotlMovesEachBit : Obligations.RotlMovesEachBit := by
  intro x n _ hle
  exact ⟨rfl, fun i hi => getLsbD_rotl_add_mod x n i (Nat.lt_succ_of_le hle) hi⟩

/-- Settles O6: each primitive by its lemma as a number, XOR and OR by the library's bit lemmas. -/
theorem arithmeticWraps : Obligations.ArithmeticWraps := by
  intro a b
  exact ⟨toNat_add64 a b, toNat_mul64 a b,
    fun _ _ => ⟨BitVec.getLsbD_xor, BitVec.getLsbD_or⟩,
    fun n _ => ⟨toNat_shl a n, toNat_shr a n⟩⟩

end Sys2Proof.Proofs
end

section
/-! PROOFS. What each generator's state depends on (spec/10_state.md R33), and units that no move can
tell apart (R40, R43): one step, and so every run, takes indistinct units to indistinct units and
answers alike on the way. -/

namespace Sys2Proof.Machine

/-! ### What a command's registers depend on -/

/-- The `SM` that an executed command leaves depends on `SM` and the lanes alone. -/
theorem effect_sm_congr (i : Instr) {s t : State} (hsm : s.sm = t.sm) (hop : s.op = t.op) :
    (effect i s).sm = (effect i t).sm := by
  cases i <;> simp [effect, hsm, hop]

/-- The `S` that an executed command leaves depends on `S` and the lanes alone. -/
theorem effect_xs_congr (i : Instr) {s t : State} (hxs : s.xs = t.xs) (hop : s.op = t.op) :
    (effect i s).xs = (effect i t).xs := by
  cases i <;> simp [effect, hxs, hop]

/-- What `exec` leaves, by `exec_eq`: a name for it, to speak of its fields. -/
def execNext (i : Instr) (s : State) : State :=
  if needsXV i && !s.xv then s.raise .errUninit else effect i s

theorem exec_eq_execNext (i : Instr) (s : State) : exec i s = .next (execNext i s) :=
  exec_eq i s

theorem execNext_of_unloaded {i : Instr} {s : State} (h : (needsXV i && !s.xv) = true) :
    execNext i s = s.raise .errUninit :=
  if_pos h

theorem execNext_of_executed {i : Instr} {s : State} (h : (needsXV i && !s.xv) = false) :
    execNext i s = effect i s :=
  if_neg (by simp [h])

theorem execNext_sm_congr (i : Instr) {s t : State} (hsm : s.sm = t.sm) (hxv : s.xv = t.xv)
    (hop : s.op = t.op) : (execNext i s).sm = (execNext i t).sm := by
  cases h : needsXV i && !s.xv
  · rw [execNext_of_executed h, execNext_of_executed (hxv ▸ h), effect_sm_congr i hsm hop]
  · rw [execNext_of_unloaded h, execNext_of_unloaded (hxv ▸ h)]
    exact hsm

theorem execNext_xs_congr (i : Instr) {s t : State} (hxs : s.xs = t.xs) (hxv : s.xv = t.xv)
    (hop : s.op = t.op) : (execNext i s).xs = (execNext i t).xs := by
  cases h : needsXV i && !s.xv
  · rw [execNext_of_executed h, execNext_of_executed (hxv ▸ h), effect_xs_congr i hxs hop]
  · rw [execNext_of_unloaded h, execNext_of_unloaded (hxv ▸ h)]
    exact hxs

/-! ### Steps and runs -/

theorem runWord_of_decode {w : CmdWord} {i : Instr} (h : decode w = .instr i) (s : State) :
    runWord w s = .next (execNext i s) := by
  rw [runWord_eq, h, execNext]

theorem runWord_of_illegal {w : CmdWord} {why : IllegalWord} (h : decode w = .illegal why) (s : State) :
    runWord w s = .next (s.raise .errIllegal) := by
  rw [runWord_eq, h]

theorem step_of_idle {s : State} (h : s.pending = []) : step s = .next s := by
  simp only [step, h]

theorem step_of_command {s : State} {c : Command} {rest : List HostMove}
    (h : s.pending = .command c :: rest) : step s = runWord c.word (s.accept c rest) := by
  simp only [step, h]

theorem step_of_reset {s : State} {rest : List HostMove}
    (h : s.pending = .reset :: rest ∨ ∃ c, s.pending = .resetDuring c :: rest) :
    step s = .next (s.resetUnit rest) := by
  obtain h | ⟨c, h⟩ := h <;> simp only [step, h]

/-- Every step answers a next state. -/
theorem step_next (s : State) : ∃ t, step s = .next t := by
  cases h : s.pending with
  | nil => exact ⟨_, step_of_idle h⟩
  | cons m rest =>
    cases m with
    | command c => exact ⟨_, (step_of_command h).trans (runWord_eq c.word _)⟩
    | reset => exact ⟨_, step_of_reset (.inl h)⟩
    | resetDuring c => exact ⟨_, step_of_reset (.inr ⟨c, h⟩)⟩

theorem run_zero (s : State) : Sys2Proof.core.run 0 s = .next s := (rfl)

theorem run_succ_of_step {s t : State} (h : step s = .next t) (k : Nat) :
    Sys2Proof.core.run (k + 1) s = Sys2Proof.core.run k t := by
  have hstep : Sys2Proof.core.step s = .next t := h
  simp only [Host.Core.run, hstep]

/-- A step that answers `r` puts `r` before what the run answers from there. -/
theorem Responds.cons {s t : State} {r : Response} {k : Nat} {rs : List Response}
    (hstep : step s = .next t) (hr : t.responses = s.responses ++ [r]) (h : Responds k t rs) :
    Responds (k + 1) s (r :: rs) := by
  obtain ⟨u, hrun, hu⟩ := h
  exact ⟨u, (run_succ_of_step hstep k).trans hrun,
    by rw [hu, hr, List.append_assoc, List.singleton_append]⟩

/-! ### Indistinct units -/

/-- Two units went from `s` and `t` to `s'` and `t'`, which are indistinct, and answered the same. -/
def AnsweredAlike (s t s' t' : State) : Prop :=
  Indistinct s' t' ∧ ∃ rs, s'.responses = s.responses ++ rs ∧ t'.responses = t.responses ++ rs

theorem Indistinct.xv_eq {s t : State} (h : Indistinct s t) : s.xv = t.xv := h.2.1

theorem Indistinct.pending_eq {s t : State} (h : Indistinct s t) : s.pending = t.pending := h.2.2.2

theorem Indistinct.answeredAlike {s t : State} (h : Indistinct s t) : AnsweredAlike s t s t :=
  ⟨h, [], by simp⟩

theorem AnsweredAlike.trans {s t s₁ t₁ s₂ t₂ : State} (h₁ : AnsweredAlike s t s₁ t₁)
    (h₂ : AnsweredAlike s₁ t₁ s₂ t₂) : AnsweredAlike s t s₂ t₂ := by
  obtain ⟨_, rs, hs, ht⟩ := h₁
  obtain ⟨hind, rs', hs', ht'⟩ := h₂
  exact ⟨hind, rs ++ rs', by rw [hs', hs, List.append_assoc], by rw [ht', ht, List.append_assoc]⟩

theorem Indistinct.raise_alike {s t : State} (h : Indistinct s t) (e : Status) :
    AnsweredAlike s t (s.raise e) (t.raise e) :=
  ⟨h, [⟨e, []⟩], rfl, rfl⟩

theorem Indistinct.accept_indistinct {s t : State} (h : Indistinct s t) (c : Command)
    (rest : List HostMove) :
    Indistinct (s.accept c rest) (t.accept c rest) := by
  obtain ⟨hsm, hxv, hxs, _⟩ := h
  exact ⟨hsm, hxv, hxs, rfl⟩

/-- Reset leaves `S` free, and unloaded (R40). -/
theorem resetUnit_indistinct (s t : State) (rest : List HostMove) :
    Indistinct (s.resetUnit rest) (t.resetUnit rest) :=
  ⟨rfl, rfl, by simp, rfl⟩

/-- An executed command reads `S` only where both units have loaded it, and it leaves `S` unequal only
where it leaves `S` and `XV` alone. -/
theorem Indistinct.effect_alike {s t : State} (h : Indistinct s t) {i : Instr} (hop : s.op = t.op)
    (hi : (needsXV i && !s.xv) = false) : AnsweredAlike s t (effect i s) (effect i t) := by
  obtain ⟨hsm, hxv, hxs, hpend⟩ := h
  have hneeds : needsXV i = true → s.xs = t.xs := fun hn => hxs (by simpa [hn] using hi)
  obtain ⟨hwords, hsm', hxs'⟩ := effect_congr i hsm hxv hop hneeds
  obtain ⟨_, hps, _⟩ := effect_frame i s
  obtain ⟨_, hpt, _⟩ := effect_frame i t
  refine ⟨⟨hsm', by rw [effect_xv, effect_xv, hxv], fun hv => ?_, by rw [hps, hpt, hpend]⟩,
    [⟨.ok, effectWords i s⟩], effect_responses_eq i s, by rw [effect_responses_eq, hwords]⟩
  obtain heq | ⟨_, hload, hs, ht⟩ := hxs'
  · exact heq
  · have hloaded : s.xv = true := by simpa [effect_xv, hload] using hv
    rw [hs, ht, hxs hloaded]

theorem Indistinct.execNext_alike {s t : State} (h : Indistinct s t) (hop : s.op = t.op) (i : Instr) :
    AnsweredAlike s t (execNext i s) (execNext i t) := by
  have hxv := h.xv_eq
  cases hi : needsXV i && !s.xv
  · rw [execNext_of_executed hi, execNext_of_executed (hxv ▸ hi)]
    exact h.effect_alike hop hi
  · rw [execNext_of_unloaded hi, execNext_of_unloaded (hxv ▸ hi)]
    exact h.raise_alike .errUninit

theorem Indistinct.runWord_alike {s t s' : State} (h : Indistinct s t) (hop : s.op = t.op) {w : CmdWord}
    (hs : runWord w s = .next s') : ∃ t', runWord w t = .next t' ∧ AnsweredAlike s t s' t' := by
  cases hw : decode w with
  | illegal why =>
    rw [runWord_of_illegal hw] at hs ⊢
    cases hs
    exact ⟨_, rfl, h.raise_alike .errIllegal⟩
  | instr i =>
    rw [runWord_of_decode hw] at hs ⊢
    cases hs
    exact ⟨_, rfl, h.execNext_alike hop i⟩

theorem Indistinct.step_alike {s t s' : State} (h : Indistinct s t) (hs : step s = .next s') :
    ∃ t', step t = .next t' ∧ AnsweredAlike s t s' t' := by
  have hpend := h.pending_eq
  obtain ⟨hidle, rfl⟩ | ⟨c, rest, hc, hrun⟩ | ⟨rest, hreset, rfl⟩ := step_cases hs
  · exact ⟨t, step_of_idle (hpend ▸ hidle), h.answeredAlike⟩
  · obtain ⟨t', ht', halike⟩ := (h.accept_indistinct c rest).runWord_alike rfl hrun
    exact ⟨t', (step_of_command (hpend ▸ hc)).trans ht', halike⟩
  · exact ⟨_, step_of_reset (hpend ▸ hreset), resetUnit_indistinct s t rest, [], by simp⟩

theorem Indistinct.run_alike {s t s' : State} (h : Indistinct s t) {k : Nat}
    (hs : Sys2Proof.core.run k s = .next s') :
    ∃ t', Sys2Proof.core.run k t = .next t' ∧ AnsweredAlike s t s' t' := by
  induction k generalizing s t with
  | zero =>
    cases hs
    exact ⟨t, run_zero t, h.answeredAlike⟩
  | succ k ih =>
    obtain ⟨s₁, hs₁⟩ := step_next s
    obtain ⟨t₁, ht₁, hfirst⟩ := h.step_alike hs₁
    rw [run_succ_of_step hs₁] at hs
    obtain ⟨t', ht', hrest⟩ := ih hfirst.1 hs
    exact ⟨t', (run_succ_of_step ht₁ k).trans ht', hfirst.trans hrest⟩

/-- R16: indistinct units answer every sequence of moves alike. -/
theorem Indistinct.responds {s t : State} (h : Indistinct s t) {k : Nat} {rs : List Response}
    (hs : Responds k s rs) : Responds k t rs := by
  obtain ⟨s', hrun, hresp⟩ := hs
  obtain ⟨t', ht', _, rs', hs', ht⟩ := h.run_alike hrun
  have hrs : rs' = rs := List.append_cancel_left (hs'.symm.trans hresp)
  exact ⟨t', ht', hrs ▸ ht⟩

/-! ### Loading a unit -/

theorem step_xload {u : State} {q : Quad} {rest : List HostMove}
    (h : u.pending = .command ⟨encode .xload, q⟩ :: rest) :
    step u = .next (((u.accept ⟨encode .xload, q⟩ rest).loadS q).respond []) := by
  have hword : decode (encode .xload) = .instr .xload := by decide
  rw [step_of_command h, runWord_of_decode hword]
  rfl

theorem step_smseed {u : State} {q : Quad} {rest : List HostMove}
    (h : u.pending = .command ⟨encode .smseed, q⟩ :: rest) :
    step u = .next (((u.accept ⟨encode .smseed, q⟩ rest).writeSM q.w0).respond []) := by
  have hword : decode (encode .smseed) = .instr .smseed := by decide
  rw [step_of_command h, runWord_of_decode hword]
  rfl

end Sys2Proof.Machine

namespace Sys2Proof.Proofs
open Sys2Proof.Machine

/-- Settles O44: what a command leaves in one generator's registers is a function of those, `XV` and
the lanes. -/
theorem generatorsAreIndependent : Obligations.GeneratorsAreIndependent := by
  intro i s q w
  exact ⟨_, _, _, exec_eq_execNext i s, exec_eq_execNext i _, exec_eq_execNext i _,
    execNext_sm_congr i rfl rfl rfl, execNext_xs_congr i rfl rfl rfl⟩

/-- Settles O53: two units after reset are indistinct whatever their `S` holds, since `XV` is 0. -/
theorem resetContentsOfSUnobservable : Obligations.ResetContentsOfSUnobservable := by
  refine ⟨rfl, by decide, rfl, rfl, rfl, fun moves q q' k rs => Indistinct.responds ?_⟩
  exact ⟨rfl, rfl, by simp, rfl⟩

/-- Settles O55: XLOAD and SMSEED of the saved words leave the second unit indistinct from the first. -/
theorem copiedUnitAnswersAlike : Obligations.CopiedUnitAnswersAlike := by
  intro s u x y z moves k rs hxv
  refine ⟨requireLoaded_loaded s _ hxv, rfl, fun hs => ?_⟩
  refine .cons (step_xload rfl) rfl (.cons (step_smseed rfl) rfl (Indistinct.responds ?_ hs))
  exact ⟨rfl, hxv, fun _ => rfl, rfl⟩

end Sys2Proof.Proofs
end

section
/-! PROOFS. Words as bytes, little-endian (spec/20_memory.md R55): the byte at each place, and the way
back. -/

namespace Sys2Proof

@[simp] theorem length_bytesLE {m : Nat} (n : Nat) (w : BitVec m) : (bytesLE n w).length = n := by
  simp [bytesLE]

theorem getElem?_bytesLE {m n k : Nat} (w : BitVec m) (hk : k < n) :
    (bytesLE n w)[k]? = some (w.extractLsb' (8 * k) 8) := by
  simp [bytesLE, hk]

/-- The low byte comes first, and the rest are the bytes of the word shifted down by one. -/
theorem bytesLE_succ {m : Nat} (n : Nat) (w : BitVec m) :
    bytesLE (n + 1) w = w.extractLsb' 0 8 :: bytesLE n (w >>> 8) := by
  have hbyte : ∀ k, w.extractLsb' (8 * (k + 1)) 8 = (w >>> 8).extractLsb' (8 * k) 8 := fun k => by
    ext i
    simp [Nat.mul_succ, Nat.add_comm, Nat.add_left_comm]
  simp [bytesLE, List.range_succ_eq_map, Function.comp_def, hbyte]

/-- The n low bytes of a bit vector spell its number modulo 2^(8n). -/
theorem natOfBytesLE_bytesLE {m : Nat} (n : Nat) (w : BitVec m) :
    natOfBytesLE (bytesLE n w) = w.toNat % 2 ^ (8 * n) := by
  induction n generalizing w with
  | zero => simp [bytesLE, natOfBytesLE, Nat.mod_one]
  | succ n ih =>
    have hlow : (w.extractLsb' 0 8).toNat = w.toNat % 256 := by simp
    have hrest : (w >>> 8).toNat = w.toNat / 256 := by
      rw [BitVec.toNat_ushiftRight, Nat.shiftRight_eq_div_pow]
    have hpow : 2 ^ (8 * (n + 1)) = 256 * 2 ^ (8 * n) := by rw [Nat.mul_succ, Nat.pow_add']
    rw [bytesLE_succ, natOfBytesLE, ih, hlow, hrest, hpow, Nat.mod_mul]

theorem ofNat_natOfBytesLE_bytesLE (n : Nat) (w : BitVec (8 * n)) :
    BitVec.ofNat (8 * n) (natOfBytesLE (bytesLE n w)) = w := by
  rw [natOfBytesLE_bytesLE, Nat.mod_eq_of_lt w.isLt, BitVec.ofNat_toNat, BitVec.setWidth_eq]

@[simp] theorem length_wordBytes (w : Word) : (wordBytes w).length = 8 := length_bytesLE 8 w

@[simp] theorem wordOfBytes_wordBytes (w : Word) : wordOfBytes (wordBytes w) = w :=
  ofNat_natOfBytesLE_bytesLE 8 w

@[simp] theorem length_cmdBytes (w : CmdWord) : (cmdBytes w).length = 4 := length_bytesLE 4 w

@[simp] theorem cmdOfBytes_cmdBytes (w : CmdWord) : cmdOfBytes (cmdBytes w) = w :=
  ofNat_natOfBytesLE_bytesLE 4 w

@[simp] theorem length_quadBytes (q : Quad) : (quadBytes q).length = 32 := by
  simp [quadBytes]

/-- Each word's eight bytes stand where `quadOfBytes` cuts them out. -/
@[simp] theorem quadOfBytes_quadBytes (q : Quad) : quadOfBytes (quadBytes q) = q := by
  simp [quadOfBytes, quadBytes, List.drop_append, List.take_of_length_le,
    List.drop_of_length_le]

end Sys2Proof

namespace Sys2Proof.Proofs
open Sys2Proof.Machine

/-- Settles O56: byte k by the definition of `bytesLE`, and the way back because n bytes spell a
number below 2^(8n). -/
theorem bytesAreLittleEndian : Obligations.BytesAreLittleEndian :=
  ⟨fun w _ hk => getElem?_bytesLE w hk,
    fun w => ⟨length_wordBytes w, wordOfBytes_wordBytes w⟩,
    fun w _ hk => getElem?_bytesLE w hk,
    fun w => ⟨length_cmdBytes w, cmdOfBytes_cmdBytes w⟩,
    fun q => ⟨rfl, length_quadBytes q, quadOfBytes_quadBytes q⟩⟩

end Sys2Proof.Proofs
end

section
/-! PROOFS. The ports (spec/20_memory.md): the one response that a command gets (R53), the lanes that it
reads (R52), and the commands that only read (R62). -/

namespace Sys2Proof.Machine

/-! ### The response of a command (R53) -/

/-- The response that a command gets: ERR_UNINIT where it needs `S` on an unloaded unit, and otherwise
OK with the words of `effectWords`. -/
def answer (i : Instr) (s : State) : Response :=
  if needsXV i && !s.xv then ⟨.errUninit, []⟩ else ⟨.ok, effectWords i s⟩

theorem answer_of_unloaded {i : Instr} {s : State} (h : (needsXV i && !s.xv) = true) :
    answer i s = ⟨.errUninit, []⟩ :=
  if_pos h

theorem answer_of_executed {i : Instr} {s : State} (h : (needsXV i && !s.xv) = false) :
    answer i s = ⟨.ok, effectWords i s⟩ :=
  if_neg (by simp [h])

theorem execNext_responses (i : Instr) (s : State) :
    (execNext i s).responses = s.responses ++ [answer i s] := by
  cases h : needsXV i && !s.xv
  · rw [execNext_of_executed h, answer_of_executed h, effect_responses_eq]
  · rw [execNext_of_unloaded h, answer_of_unloaded h, State.raise_responses]

theorem answer_data_of_error {i : Instr} {s : State} (h : (answer i s).status ≠ .ok) :
    (answer i s).data = [] := by
  cases hi : needsXV i && !s.xv
  · exact absurd (by rw [answer_of_executed hi]) h
  · rw [answer_of_unloaded hi]

theorem answer_data_of_ok {i : Instr} {s : State} (h : (answer i s).status = .ok) :
    (answer i s).data = effectWords i s := by
  cases hi : needsXV i && !s.xv
  · rw [answer_of_executed hi]
  · rw [answer_of_unloaded hi] at h
    cases h

theorem length_effectWords (i : Instr) (s : State) : (effectWords i s).length = dataWords i := by
  cases i <;> simp [effectWords, dataWords, Quad.toList]

theorem length_answer_data_of_ok {i : Instr} {s : State} (h : (answer i s).status = .ok) :
    (answer i s).data.length = dataWords i := by
  rw [answer_data_of_ok h, length_effectWords]

/-- The outputs of the loop of R104 in closed form: each is the finalizer of the state that many
increments on. -/
theorem smgenLoop_outputs (n : Nat) (s : Word) :
    (smgenLoop n s).2 = (List.range n).map fun i => mix64 (s + BitVec.ofNat 64 (i + 1) * GAMMA) := by
  induction n generalizing s with
  | zero => rfl
  | succ n ih =>
    have hfirst : s + GAMMA = s + BitVec.ofNat 64 (0 + 1) * GAMMA := by
      rw [Nat.zero_add, BitVec.one_mul]
    have hlater : ∀ i, s + GAMMA + BitVec.ofNat 64 (i + 1) * GAMMA =
        s + BitVec.ofNat 64 (i + 1 + 1) * GAMMA := fun i => by
      rw [BitVec.ofNat_add (i + 1) 1, BitVec.add_mul, BitVec.one_mul]
      ac_rfl
    rw [smgenLoop_succ, ih, smstep_fst, smstep_snd, List.range_succ_eq_map, List.map_cons,
      List.map_map, ← hfirst]
    simp only [hlater, Function.comp_def, Nat.succ_eq_add_one]

/-- A command on the port is answered by what it decodes to, from the registers before it. -/
theorem step_of_decode {s : State} {c : Command} {rest : List HostMove} {i : Instr}
    (h : s.pending = .command c :: rest) (hw : decode c.word = .instr i) :
    step s = .next (execNext i (s.accept c rest)) :=
  (step_of_command h).trans (runWord_of_decode hw _)

theorem step_of_illegal {s : State} {c : Command} {rest : List HostMove} {why : IllegalWord}
    (h : s.pending = .command c :: rest) (hw : decode c.word = .illegal why) :
    step s = .next ((s.accept c rest).raise .errIllegal) :=
  (step_of_command h).trans (runWord_of_illegal hw _)

/-! ### The lanes that a command reads (R52) -/

theorem sameLanesRead_one {i : Instr} {a b : Quad} (hi : lanesUsed i = 1)
    (h : sameLanesRead i a b) : a.w0 = b.w0 := by
  simpa [sameLanesRead, hi, Quad.toList] using h

theorem sameLanesRead_four {i : Instr} {a b : Quad} (hi : lanesUsed i = 4)
    (h : sameLanesRead i a b) : a = b := by
  simpa [sameLanesRead, hi, Quad.toList, Quad.ext_iff] using h

/-- The state `s` with other values on the operand lanes. -/
def State.withOp (s : State) (q : Quad) : State := { s with op := q }

@[simp] theorem State.withOp_op (s : State) (q : Quad) : (s.withOp q).op = q := (rfl)

/-- Other values on the lanes that a command does not read leave its effect as it was, in every field
but the lanes. -/
theorem effect_withOp {i : Instr} {s : State} {b : Quad} (h : sameLanesRead i s.op b) :
    effect i (s.withOp b) = (effect i s).withOp b := by
  cases i with
  | smseed | smeq | xseed | u2d =>
    have hlane : s.op.w0 = b.w0 := sameLanesRead_one rfl h
    simp only [effect, State.lane0_eq, State.withOp_op, hlane]
    rfl
  | xload | xeq =>
    obtain rfl : s.op = b := sameLanesRead_four rfl h
    rfl
  | smnext | smgen | smsave | xnextP | xnextPP | xnextSS | xjump | xljump | xsave | gmin | gmax
  | stat => rfl

theorem execNext_withOp {i : Instr} {s : State} {b : Quad} (h : sameLanesRead i s.op b) :
    execNext i (s.withOp b) = (execNext i s).withOp b := by
  cases hi : needsXV i && !s.xv
  · rw [execNext_of_executed hi, execNext_of_executed (s := s.withOp b) hi, effect_withOp h]
  · rw [execNext_of_unloaded hi, execNext_of_unloaded (s := s.withOp b) hi]
    rfl

/-! ### The commands that only read (R62) -/

theorem effect_of_reader {i : Instr} (h : isReader i = true) (s : State) :
    effect i s = s.respond (effectWords i s) := by
  cases i with
  | smsave | smeq | xsave | xeq | stat | gmin | gmax | u2d => rfl
  | smseed | smnext | smgen | xseed | xload | xnextP | xnextPP | xnextSS | xjump | xljump => cases h

/-- A reading command, executed or refused, only adds its response. -/
theorem execNext_of_reader {i : Instr} (h : isReader i = true) (s : State) :
    execNext i s = s.respondWith (answer i s) := by
  cases hi : needsXV i && !s.xv
  · rw [execNext_of_executed hi, answer_of_executed hi, effect_of_reader h]
    rfl
  · rw [execNext_of_unloaded hi, answer_of_unloaded hi]
    rfl

/-- No command reads the responses already delivered. -/
theorem answer_respondWith (i : Instr) (s : State) (r : Response) :
    answer i (s.respondWith r) = answer i s := by
  obtain ⟨hwords, _, _⟩ :=
    effect_congr i (s := s.respondWith r) (t := s) rfl rfl rfl fun _ => rfl
  rw [answer, answer, hwords, State.respondWith_xv]

theorem execList_replicate_of_reader {i : Instr} (h : isReader i = true) (n : Nat) (s : State) :
    execList (List.replicate n i) s =
      .next { s with responses := s.responses ++ List.replicate n (answer i s) } := by
  induction n generalizing s with
  | zero => simp [execList]
  | succ n ih =>
    simp only [List.replicate_succ, execList, exec_eq_execNext, execNext_of_reader h, ih,
      answer_respondWith]
    simp [State.respondWith]

/-- A command that neither reads nor draws is a load or a jump, and its response has no data. -/
theorem answer_data_of_not_reader_not_drawing {i : Instr} (hr : isReader i = false)
    (hd : isDrawing i = false) (s : State) : (answer i s).data = [] := by
  by_cases hok : (answer i s).status = .ok
  · rw [answer_data_of_ok hok]
    cases i with
    | smseed | xseed | xload | xjump | xljump => rfl
    | smnext | smgen | xnextP | xnextPP | xnextSS => cases hd
    | smsave | smeq | xsave | xeq | stat | gmin | gmax | u2d => cases hr
  · exact answer_data_of_error hok

end Sys2Proof.Machine

namespace Sys2Proof.Proofs
open Sys2Proof.Machine

/-- Settles O41: an illegal word is answered with no data, and every command with `answer`, whose OK
form has `dataWords` words. -/
theorem responseLengthIsFixed : Obligations.ResponseLengthIsFixed := by
  intro s c rest hp
  cases hw : decode c.word with
  | illegal why => exact ⟨_, ⟨.errIllegal, []⟩, step_of_illegal hp hw, rfl, by simp⟩
  | instr j =>
    have hnone : ∀ i ∈ [Instr.smseed, .xseed, .xload, .xjump, .xljump], dataWords i = 0 := by decide
    have hone : ∀ i ∈ [Instr.smnext, .smsave, .smeq, .xnextP, .xnextPP, .xnextSS, .xeq, .gmin, .gmax,
        .u2d, .stat], dataWords i = 1 := by decide
    refine ⟨_, answer j (s.accept c rest), step_of_decode hp hw, execNext_responses _ _,
      answer_data_of_error, ?_, ?_, ?_, ?_⟩
    · rintro i hi ⟨⟩ hok
      exact List.length_eq_zero_iff.1 ((length_answer_data_of_ok hok).trans (hnone j hi))
    · rintro i hi ⟨⟩ hok
      exact (length_answer_data_of_ok hok).trans (hone j hi)
    · rintro ⟨⟩ hok
      exact answer_data_of_ok hok
    · rintro n ⟨⟩
      rw [answer_of_executed rfl, effectWords, smgenLoop_outputs, State.accept_sm]

/-- Settles O46: the table of lanes command by command, and `execNext_withOp` for the lanes that a
command does not read. -/
theorem unusedLanesHaveNoEffect : Obligations.UnusedLanesHaveNoEffect := by
  refine ⟨fun i => by cases i <;> rfl, fun i s a b h => ?_⟩
  have hsame : sameLanesRead i a a := rfl
  have hexec {q : Quad} (hq : sameLanesRead i a q) :
      exec i (s.withOp q) = .next ((execNext i (s.withOp a)).withOp q) := by
    rw [exec_eq_execNext, ← execNext_withOp (s := s.withOp a) hq]
    rfl
  exact ⟨execNext i (s.withOp a), hexec hsame, hexec h⟩

/-- Settles O47: a reading command only adds its response; and of the others, those that do not draw
return no data. -/
theorem readersAreIdempotent : Obligations.ReadersAreIdempotent := by
  refine ⟨fun i s h => ⟨answer i s, fun n => execList_replicate_of_reader h n s⟩, ?_⟩
  intro i s t r hexec hresp hdata hchanged
  rw [exec_eq_execNext] at hexec
  cases hexec
  have hr : answer i s = r := by simpa [execNext_responses] using hresp
  by_contra hdraw
  cases hread : isReader i
  · exact hdata (hr ▸ answer_data_of_not_reader_not_drawing hread (by simpa using hdraw) s)
  · rw [execNext_of_reader hread] at hchanged
    exact hchanged ⟨rfl, rfl, rfl⟩

end Sys2Proof.Proofs
end

section
/-! PROOFS. The encoding (spec/30_encoding.md): which words each format admits (R71 to R73), decoding and
encoding as inverses of each other (R74, R75), and the count of the legal words (R76). -/

namespace Sys2Proof

/-! ### Fields that are zero -/

theorem getLsbD_eq_false_of_extractLsb'_eq_zero {m a n i : Nat} {w : BitVec m}
    (h : w.extractLsb' a n = 0) (hlo : a ≤ i) (hhi : i < a + n) : w.getLsbD i = false := by
  obtain ⟨j, rfl⟩ := Nat.exists_eq_add_of_le hlo
  have hbit : (w.extractLsb' a n).getLsbD j = false := by simp [h]
  simpa [show j < n by omega] using hbit

/-- A field is zero when it lies within a field that is zero. -/
theorem extractLsb'_eq_zero_of_within {m a n b k : Nat} {w : BitVec m} (h : w.extractLsb' a n = 0)
    (hlo : a ≤ b) (hhi : b + k ≤ a + n) : w.extractLsb' b k = 0 := by
  refine BitVec.eq_of_getLsbD_eq fun i hi => ?_
  simp [getLsbD_eq_false_of_extractLsb'_eq_zero h (show a ≤ b + i by omega) (by omega)]

/-- A word whose reserved bits are zero is put together from its other fields (R70). -/
theorem packFields_fields {w : CmdWord} (hRZ1 : w.extractLsb' 10 6 = 0)
    (hRZ2 : w.extractLsb' 24 8 = 0) :
    packFields (fieldOPC w) (fieldVAR w) (fieldN w) = w := by
  refine BitVec.eq_of_getLsbD_eq fun i hi => ?_
  simp only [getLsbD_packFields, fieldOPC, fieldVAR, fieldN, BitVec.getLsbD_extractLsb']
  split
  · simp [*]
  split
  · simp [show i - 8 < 2 by omega, show 8 + (i - 8) = i by omega]
  split
  · exact (getLsbD_eq_false_of_extractLsb'_eq_zero hRZ1 (by omega) (by omega)).symm
  split
  · simp [show i - 16 < 8 by omega, show 16 + (i - 16) = i by omega]
  · exact (getLsbD_eq_false_of_extractLsb'_eq_zero hRZ2 (by omega) (by omega)).symm

/-! ### Which words are legal, format by format -/

theorem Decoded.isLegal_eq_true_iff {d : Decoded} : d.isLegal = true ↔ ∃ i, d = .instr i := by
  cases d <;> simp [Decoded.isLegal]

theorem Decoded.isLegal_eq_false_iff {d : Decoded} : d.isLegal = false ↔ ∃ why, d = .illegal why := by
  cases d <;> simp [Decoded.isLegal]

theorem isLegal_decodeN_eq_false_iff (w : CmdWord) :
    (decodeN w).isLegal = false ↔ reservedNHigh w ≠ 0 ∨ reservedNLow w ≠ 0 := by
  by_cases h : reservedNHigh w = 0#8 ∧ reservedNLow w = 0#8
  · simp [decodeN, h, Decoded.isLegal]
  · rw [decodeN, if_neg h]
    simpa [Decoded.isLegal, Classical.or_iff_not_imp_left] using h

theorem isLegal_decodeZ_eq_false_iff (w : CmdWord) (i : Instr) :
    (decodeZ w i).isLegal = false ↔ reservedZ w ≠ 0 := by
  by_cases h : reservedZ w = 0#24 <;> simp [decodeZ, h, Decoded.isLegal]

/-- The one value of VAR without a variant is 3 (R78). -/
theorem variantOf_eq_none_iff : ∀ v : BitVec 2, variantOf v = none ↔ v = 3 := by decide

theorem isLegal_decodeV_eq_false_iff (w : CmdWord) :
    (decodeV w).isLegal = false ↔ reservedV w ≠ 0 ∨ fieldVAR w = 3 := by
  rw [decodeV, ← variantOf_eq_none_iff]
  by_cases h : reservedV w = 0#22
  · cases hv : variantOf (fieldVAR w) <;> simp [h, Decoded.isLegal]
  · simp [h, Decoded.isLegal]

/-! ### Decoding and encoding -/

theorem decode_encode {i : Instr} (h : i.WellFormed) : decode (encode i) = .instr i := by
  cases i with
  | smgen n =>
    have hn : n < 256 := of_decide_eq_true h
    have hlow : reservedNLow (packFields 0x12#8 0#2 (BitVec.ofNat 8 n)) = 0#8 :=
      reservedNLow_packFields _ _
    simp [encode, decode, decodeN, hlow, Nat.mod_eq_of_lt hn]
  | smseed | smnext | smsave | smeq | xseed | xload | xnextP | xnextPP | xnextSS | xjump | xljump
  | xsave | xeq | gmin | gmax | u2d | stat => decide

/-- The word of an XNEXT holds the value of VAR that selects its variant (R78). -/
theorem encode_xnext_of_variantOf {x : BitVec 2} {v : Variant} (h : variantOf x = some v) :
    encode v.xnext = packFields 0x22 x 0 := by
  unfold variantOf at h
  split_ifs at h <;> cases h <;> subst x <;> rfl

/-- A word decodes to a well-formed command, and is the word of that command. -/
theorem wellFormed_and_encode_of_decode {w : CmdWord} {i : Instr} (h : decode w = .instr i) :
    i.WellFormed ∧ encode i = w := by
  obtain ⟨hopc, hhigh, hlow, rfl⟩ | ⟨hopc, hres, v, hv, rfl⟩ | ⟨hlookup, hres⟩ := decode_cases h
  · have hvar : fieldVAR w = 0 := extractLsb'_eq_zero_of_within hlow (by omega) (by omega)
    have hpack := packFields_fields (extractLsb'_eq_zero_of_within hlow (by omega) (by omega)) hhigh
    rw [hopc, hvar] at hpack
    exact ⟨decide_eq_true (fieldN w).isLt, by simpa [encode] using hpack⟩
  · have hn : fieldN w = 0 := extractLsb'_eq_zero_of_within hres (by omega) (by omega)
    have hpack := packFields_fields (extractLsb'_eq_zero_of_within hres (by omega) (by omega))
      (extractLsb'_eq_zero_of_within hres (by omega) (by omega))
    rw [hopc, hn, ← encode_xnext_of_variantOf hv] at hpack
    exact ⟨by cases v <;> rfl, hpack⟩
  · obtain ⟨hwf, henc, _⟩ := lookup_zCommands hlookup
    have hvar : fieldVAR w = 0 := extractLsb'_eq_zero_of_within hres (by omega) (by omega)
    have hn : fieldN w = 0 := extractLsb'_eq_zero_of_within hres (by omega) (by omega)
    have hpack := packFields_fields (extractLsb'_eq_zero_of_within hres (by omega) (by omega))
      (extractLsb'_eq_zero_of_within hres (by omega) (by omega))
    rw [hvar, hn, ← henc] at hpack
    exact ⟨hwf, hpack⟩

theorem isLegal_decode_iff (w : CmdWord) :
    (decode w).isLegal = true ↔ ∃ i : Instr, i.WellFormed ∧ encode i = w := by
  rw [Decoded.isLegal_eq_true_iff]
  constructor
  · rintro ⟨i, hi⟩
    exact ⟨i, wellFormed_and_encode_of_decode hi⟩
  · rintro ⟨i, hwf, rfl⟩
    exact ⟨i, decode_encode hwf⟩

/-! ### The well-formed commands and their words, listed (R74) -/

/-- The 14 commands of format Z, the three variants of XNEXT and the 256 counts of SMGEN. -/
def wellFormedCommands : List Instr :=
  zCommands.map Prod.snd ++
    ([Instr.xnextP, .xnextPP, .xnextSS] ++ (List.range 256).map Instr.smgen)

theorem length_wellFormedCommands : wellFormedCommands.length = 273 := by
  simp [wellFormedCommands, zCommands]

theorem mem_wellFormedCommands_iff {i : Instr} : i ∈ wellFormedCommands ↔ i.WellFormed := by
  cases i with
  | smgen n => simp [wellFormedCommands, zCommands, Instr.WellFormed, Instr.wf]
  | smseed | smnext | smsave | smeq | xseed | xload | xnextP | xnextPP | xnextSS | xjump | xljump
  | xsave | xeq | gmin | gmax | u2d | stat =>
    simp [wellFormedCommands, zCommands, Instr.WellFormed, Instr.wf]

theorem nodup_wellFormedCommands : wellFormedCommands.Nodup := by
  have hsmgen : ((List.range 256).map Instr.smgen).Nodup :=
    List.nodup_range.map fun _ _ h => Instr.smgen.inj h
  simp [wellFormedCommands, zCommands, hsmgen]

/-- The command words of R74's table. -/
def legalWords : List CmdWord := wellFormedCommands.map encode

theorem length_legalWords : legalWords.length = 273 := by
  rw [legalWords, List.length_map, length_wellFormedCommands]

theorem mem_legalWords_iff {w : CmdWord} : w ∈ legalWords ↔ (decode w).isLegal = true := by
  simp only [legalWords, List.mem_map, mem_wellFormedCommands_iff, isLegal_decode_iff]

/-- No two commands share a word, since each word decodes to its command. -/
theorem nodup_legalWords : legalWords.Nodup := by
  refine nodup_wellFormedCommands.map_on fun i hi j hj hij => ?_
  have hdecode : Decoded.instr i = .instr j := by
    rw [← decode_encode (mem_wellFormedCommands_iff.1 hi),
      ← decode_encode (mem_wellFormedCommands_iff.1 hj), hij]
  exact Decoded.instr.inj hdecode

/-! ### The illegal words (R76) -/

/-- The sixteen assigned values of OPC (R74). -/
def assignedOpcodes : List (BitVec 8) :=
  [0x10, 0x11, 0x12, 0x13, 0x14, 0x20, 0x21, 0x22, 0x23, 0x24, 0x25, 0x26, 0x30, 0x31, 0x32, 0x33]

theorem lookup_zCommands_eq_none_iff {o : BitVec 8} (hN : o ≠ 0x12#8) (hV : o ≠ 0x22#8) :
    zCommands.lookup o = none ↔ o ∉ assignedOpcodes := by
  simp [List.lookup_eq_none_iff, zCommands, assignedOpcodes, hN, hV]

/-- The cases (a), (b) for each format, and (c) of R76. -/
theorem isLegal_decode_eq_false_iff (w : CmdWord) : (decode w).isLegal = false ↔
    fieldOPC w ∉ assignedOpcodes ∨
    (fieldOPC w = 0x12 ∧ (reservedNHigh w ≠ 0 ∨ reservedNLow w ≠ 0)) ∨
    (fieldOPC w = 0x22 ∧ reservedV w ≠ 0) ∨
    (fieldOPC w ≠ 0x12 ∧ fieldOPC w ≠ 0x22 ∧ reservedZ w ≠ 0) ∨
    (fieldOPC w = 0x22 ∧ fieldVAR w = 3) := by
  by_cases hN : fieldOPC w = 0x12#8
  · rw [decode, if_pos hN, isLegal_decodeN_eq_false_iff, hN]
    simp [assignedOpcodes]
  by_cases hV : fieldOPC w = 0x22#8
  · rw [decode, if_neg hN, if_pos hV, isLegal_decodeV_eq_false_iff, hV]
    simp [assignedOpcodes]
  rw [decode, if_neg hN, if_neg hV, ← lookup_zCommands_eq_none_iff hN hV]
  cases zCommands.lookup (fieldOPC w) with
  | none => simp [Decoded.isLegal]
  | some i => simp [isLegal_decodeZ_eq_false_iff, hN, hV]

end Sys2Proof

namespace Sys2Proof.Proofs
open Sys2Proof.Machine

/-- Settles O4: the cases format by format, and the legal words counted as the words of the well-formed
commands, which `decode` tells apart. -/
theorem illegalWordsAreExactlyThese : Obligations.IllegalWordsAreExactlyThese := by
  refine ⟨isLegal_decode_eq_false_iff,
    ⟨legalWords, nodup_legalWords, length_legalWords, fun _ => mem_legalWords_iff.symm⟩,
    by decide, by decide, fun s c rest hp hill => ?_⟩
  obtain ⟨why, hw⟩ := Decoded.isLegal_eq_false_iff.1 hill
  exact step_of_illegal hp hw

end Sys2Proof.Proofs
end

section
/-! PROOFS. SplitMix64 (spec/40_splitmix64.md): the finalizer is a bijection (R100), the state steps by an
odd increment and so visits every word (R101), and what the family's commands leave and answer (R102 to
R107). -/

namespace Sys2Proof.Machine

/-! ### The finalizer (R100) -/

theorem xorShr_xor (x y : Word) (k : Nat) : xorShr (x ^^^ y) k = xorShr x k ^^^ xorShr y k := by
  simp only [xorShr, shr_xor]
  ac_rfl

/-- A word that equals its own right shift is below itself divided by a power of two, and so is 0. -/
theorem xorShr_eq_zero_iff {x : Word} {k : Nat} (hk : 0 < k) : xorShr x k = 0 ↔ x = 0 := by
  constructor
  · intro h
    have hshift : x = shr x k := BitVec.xor_eq_zero_iff.1 h
    have hdiv : x.toNat = x.toNat / 2 ^ k := by rw [← toNat_shr, ← hshift]
    by_contra hx
    have hpos : 0 < x.toNat := Nat.pos_of_ne_zero fun h0 => hx (BitVec.eq_of_toNat_eq h0)
    have := Nat.div_lt_self hpos (Nat.one_lt_two_pow hk.ne')
    omega
  · rintro rfl
    simp [xorShr, shr]

theorem xorShr_injective {k : Nat} (hk : 0 < k) : Function.Injective fun x => xorShr x k := by
  intro x y h
  have hdiff : xorShr (x ^^^ y) k = 0 := by
    rw [xorShr_xor]
    exact BitVec.xor_eq_zero_iff.2 h
  exact BitVec.xor_eq_zero_iff.1 ((xorShr_eq_zero_iff hk).1 hdiff)

/-- Multiplying by a word that has an inverse modulo 2^64 (every odd word has) loses nothing. -/
theorem mul64_injective {m m' : Word} (h : m * m' = 1) : Function.Injective fun x => mul64 x m := by
  have hinv : Function.LeftInverse (fun x => mul64 x m') fun x => mul64 x m := fun x => by
    simp [mul64, BitVec.mul_assoc, h]
  exact hinv.injective

/-- The inverse of MUL1 modulo 2^64. -/
def MUL1_INV : Word := 0x96de1b173f119089

/-- The inverse of MUL2 modulo 2^64. -/
def MUL2_INV : Word := 0x319642b2d24d8ec3

theorem mix64_injective : Function.Injective mix64 :=
  (xorShr_injective (k := 31) (by decide)).comp <|
    (mul64_injective (m := MUL2) (m' := MUL2_INV) (by decide)).comp <|
      (xorShr_injective (k := 27) (by decide)).comp <|
        (mul64_injective (m := MUL1) (m' := MUL1_INV) (by decide)).comp <|
          xorShr_injective (k := 30) (by decide)

/-- There are finitely many words, so injective is enough. -/
theorem mix64_bijective : Function.Bijective mix64 :=
  have : Finite Word := Finite.of_injective BitVec.toFin BitVec.toFin_injective
  Finite.injective_iff_bijective.1 mix64_injective

/-! ### The state after k steps (R101) -/

/-- The state after k steps, as R101 gives it. -/
theorem iterate_smstep_fst (k : Nat) (s : Word) :
    (fun x => (smstep x).1)^[k] s = s + BitVec.ofNat 64 k * GAMMA := by
  induction k with
  | zero => simp
  | succ k ih =>
    rw [Function.iterate_succ_apply', ih, smstep_fst, BitVec.ofNat_add k 1, BitVec.add_mul,
      BitVec.one_mul, BitVec.add_assoc]

/-- The inverse of GAMMA modulo 2^64; GAMMA is odd. -/
def GAMMA_INV : Word := 0xf1de83e19937733d

theorem GAMMA_INV_mul_GAMMA : GAMMA_INV * GAMMA = 1 := by decide

theorem exists_iterate_smstep_fst_eq (s v : Word) :
    ∃ k < 2 ^ 64, (fun x => (smstep x).1)^[k] s = v := by
  refine ⟨((v - s) * GAMMA_INV).toNat, BitVec.isLt _, ?_⟩
  rw [iterate_smstep_fst, BitVec.ofNat_toNat, BitVec.setWidth_eq, BitVec.mul_assoc,
    GAMMA_INV_mul_GAMMA, mul_one, add_sub_cancel]

theorem iterate_smstep_fst_inj {s : Word} {j k : Nat} (hj : j < 2 ^ 64) (hk : k < 2 ^ 64)
    (h : (fun x => (smstep x).1)^[j] s = (fun x => (smstep x).1)^[k] s) : j = k := by
  rw [iterate_smstep_fst, iterate_smstep_fst, BitVec.add_right_inj] at h
  have hword : BitVec.ofNat 64 j = BitVec.ofNat 64 k :=
    mul64_injective ((BitVec.mul_comm _ _).trans GAMMA_INV_mul_GAMMA) h
  have hnat : j % 2 ^ 64 = k % 2 ^ 64 := congrArg BitVec.toNat hword
  rwa [Nat.mod_eq_of_lt hj, Nat.mod_eq_of_lt hk] at hnat

/-- The output is a bijection of the state, since the finalizer is. -/
theorem smstep_snd_bijective : Function.Bijective fun s => (smstep s).2 :=
  mix64_bijective.comp (Equiv.addRight GAMMA).bijective

/-- The example of R103, and the first output of R104's. -/
theorem smstep_zero : smstep 0#64 = (0x9e3779b97f4a7c15, 0xe220a8397b1dcdaf) := by decide

/-! ### The loop of SMGEN (R104) -/

theorem smgenLoop_one (s : Word) : smgenLoop 1 s = ((smstep s).1, [(smstep s).2]) := by
  rw [smgenLoop_succ, smgenLoop_zero]

/-- The state that the loop leaves; `smgenLoop_outputs` has the words it returns. -/
theorem smgenLoop_fst (n : Nat) (s : Word) : (smgenLoop n s).1 = s + BitVec.ofNat 64 n * GAMMA := by
  rw [← iterate_smstep_fst]
  induction n generalizing s with
  | zero => rfl
  | succ n ih => rw [smgenLoop_succ, ih, Function.iterate_succ_apply]

/-- A word of format N as a number: the opcode and, 16 bits up, the count (R73). -/
theorem toNat_packFields_count (opc n : BitVec 8) :
    (packFields opc 0 n).toNat = opc.toNat + n.toNat * 2 ^ 16 := by
  have hjoin : n.toNat <<< 16 ||| opc.toNat = n.toNat <<< 16 + opc.toNat :=
    (Nat.shiftLeft_add_eq_or_of_lt (opc.isLt.trans (by decide)) _).symm
  show BitVec.toNat (w := 8 + 8 + 6 + 2 + 8) (0#8 ++ n ++ 0#6 ++ 0#2 ++ opc) = _
  simp only [BitVec.toNat_append, BitVec.toNat_ofNat, Nat.zero_mod, Nat.zero_shiftLeft, Nat.zero_or,
    Nat.or_zero, ← Nat.shiftLeft_add]
  rw [hjoin, Nat.add_comm, Nat.shiftLeft_eq]

theorem encode_smgen {n : Nat} (hn : n < 256) :
    encode (.smgen n) = 0x00000012#32 + (BitVec.ofNat 32 n <<< 16) := by
  have hopc : (0x12 : BitVec 8).toNat = 0x12 := by decide
  apply BitVec.eq_of_toNat_eq
  rw [encode, toNat_packFields_count, hopc, BitVec.toNat_add, BitVec.toNat_shiftLeft,
    Nat.shiftLeft_eq]
  simp only [BitVec.toNat_ofNat]
  omega

/-! ### One command -/

theorem exec_of_executed {i : Instr} {s : State} (h : (needsXV i && !s.xv) = false) :
    exec i s = .next (effect i s) := by
  rw [exec_eq_execNext, execNext_of_executed h]

theorem exec_smgen (n : Nat) (s : State) : exec (.smgen n) s = .next (effect (.smgen n) s) :=
  exec_of_executed rfl

/-- `effect` writes `SM` and responds by two updates; a statement about all of the next state has them
as one. -/
theorem State.writeSM_respond (s : State) (v : Word) (ws : List Word) :
    (s.writeSM v).respond ws = { s with sm := v, responses := s.responses ++ [⟨.ok, ws⟩] } := (rfl)

/-- The outcome of a comparison is 1 or 0 (R35). -/
theorem boolWord_beq (a b : Word) : boolWord (a == b) = if a = b then 1 else 0 := by
  simp [boolWord]

/-! ### Commands in a row -/

theorem execList_nil (s : State) : execList [] s = .next s := (rfl)

theorem execList_cons_of_executed {i : Instr} {s : State} (h : (needsXV i && !s.xv) = false)
    (is : List Instr) : execList (i :: is) s = execList is (effect i s) := by
  simp only [execList, exec_of_executed h]

/-- The responses to SMNEXT n times over on a unit whose `SM` is `v`: one for each word of the loop of
R104. -/
def smnextResponses (n : Nat) (v : Word) : List Response := (smgenLoop n v).2.map fun w => ⟨.ok, [w]⟩

theorem execList_replicate_smnext (n : Nat) (s : State) :
    execList (List.replicate n .smnext) s = .next { s with
      sm := (smgenLoop n s.sm).1
      responses := s.responses ++ smnextResponses n s.sm } := by
  induction n generalizing s with
  | zero => simp [execList_nil, smnextResponses]
  | succ n ih =>
    rw [List.replicate_succ, execList_cons_of_executed rfl, ih, effect]
    exact congrArg Host.Outcome.next
      (by apply State.ext <;> simp [smgenLoop_succ, smnextResponses])

/-- The responses to XNEXT of the variants `vs` on a loaded unit whose `S` is `q`: each output is
computed from the state before its step (R125). -/
def xnextResponses (vs : List Variant) (q : Quad) : List Response :=
  vs.mapIdx fun i v => ⟨.ok, [outOf v (stepsOn i q)]⟩

theorem effect_xnext (v : Variant) (s : State) : effect v.xnext s = s.xnext v := by
  cases v <;> rfl

theorem execList_map_xnext (vs : List Variant) {s : State} (h : s.xv = true) :
    execList (vs.map Variant.xnext) s = .next { s with
      xs := stepsOn vs.length s.xs
      responses := s.responses ++ xnextResponses vs s.xs } := by
  induction vs generalizing s with
  | nil => simp [execList_nil, xnextResponses]
  | cons v vs ih =>
    rw [List.map_cons, execList_cons_of_executed (by simp [h]), effect_xnext, ih (by simpa using h)]
    exact congrArg Host.Outcome.next
      (by apply State.ext <;> simp [stepsOn_succ', xnextResponses])

/-- A load and then XNEXT of any variants: the responses come from the words that the load leaves. -/
theorem execList_load_xnext {i : Instr} (hneeds : needsXV i = false) (hloads : loadsS i = true)
    (vs : List Variant) (s : State) : ∃ t, execList (i :: vs.map Variant.xnext) s = .next t ∧
      t.responses = s.responses ++ ⟨.ok, effectWords i s⟩ :: xnextResponses vs (effect i s).xs := by
  have hloaded : (effect i s).xv = true := by simp [effect_xv, hloads]
  have hexecuted : (needsXV i && !s.xv) = false := by simp [hneeds]
  refine ⟨_, (execList_cons_of_executed hexecuted _).trans (execList_map_xnext vs hloaded), ?_⟩
  simp [effect_responses_eq]

end Sys2Proof.Machine

namespace Sys2Proof.Proofs
open Sys2Proof.Machine

/-- Settles O8: the five steps are the definition of `mix64`, and each of them is injective. -/
theorem mixIsTheRulesBijection : Obligations.MixIsTheRulesBijection :=
  ⟨fun _ => rfl, mix64_bijective, by decide, by decide, by decide, by decide, by decide, by decide⟩

/-- Settles O9: k steps add `k * GAMMA`, from which the inverse of GAMMA gives k again; and the output
is a bijection of the state. -/
theorem stepVisitsEveryWord : Obligations.StepVisitsEveryWord := by
  refine ⟨fun _ => rfl, fun s k => ⟨iterate_smstep_fst k s, ?_⟩, exists_iterate_smstep_fst_eq,
    fun _ _ _ => iterate_smstep_fst_inj, fun s w => ?_, fun s j k hj hk h => ?_⟩
  · rw [smstep_snd, ← smstep_fst, ← Function.iterate_succ_apply' (fun x => (smstep x).1),
      iterate_smstep_fst]
  · obtain ⟨v, hv⟩ := smstep_snd_bijective.surjective w
    obtain ⟨k, hk, hstate⟩ := exists_iterate_smstep_fst_eq s v
    exact ⟨k, hk, by rw [hstate]; exact hv⟩
  · exact iterate_smstep_fst_inj hj hk (smstep_snd_bijective.injective h)

/-- Settles O12: the loop in closed form, the loop as SMNEXT over and over, and the loop cut in two. -/
theorem smgenClosedForm : Obligations.SmgenClosedForm := by
  refine ⟨fun n hn => encode_smgen (by omega), fun n s => ?_, fun n s => ?_, fun s => ?_,
    fun s => ?_, fun m n s => ?_, by decide, by decide⟩
  · rw [exec_smgen, effect, smgenLoop_fst, smgenLoop_outputs, State.writeSM_respond]
  · exact ⟨_, (smgenLoop n s.sm).2, exec_smgen n s, effect_responses_eq _ s,
      execList_replicate_smnext n s⟩
  · rw [exec_smgen, effect, smgenLoop_zero, State.writeSM_respond]
  · rw [exec_smgen, exec_of_executed rfl, effect, effect, smgenLoop_one]
  · refine ⟨effect (.smgen n) (effect (.smgen m) s), (smgenLoop m s.sm).2,
      (smgenLoop n (smgenLoop m s.sm).1).2, ?_, ?_, ?_⟩
    · rw [execList_cons_of_executed rfl, execList_cons_of_executed rfl, execList_nil]
    · simp [effect]
    · rw [exec_smgen, effect, smgenLoop_add]
      rfl

/-- Settles O13: the seed or the load gives the registers that all the responses come from, and these
are `smnextResponses` and `xnextResponses` of them. -/
theorem seededSequencesAreDeterministic : Obligations.SeededSequencesAreDeterministic := by
  refine ⟨fun n v => ⟨⟨.ok, []⟩ :: smnextResponses n v, ?_⟩,
    fun vs v => ⟨⟨.ok, []⟩ :: xnextResponses vs (seedExpand v), ?_⟩,
    fun vs q => ⟨⟨.ok, []⟩ :: xnextResponses vs q, ?_⟩,
    smstep_snd_bijective.surjective, fun w => Nat.le_pred_of_lt w.isLt,
    by decide, by decide, by decide⟩
  · rintro s rfl
    refine ⟨_, (execList_cons_of_executed rfl _).trans (execList_replicate_smnext n _), ?_⟩
    simp [effect]
  · rintro s rfl
    exact execList_load_xnext rfl rfl vs s
  · rintro s rfl
    exact execList_load_xnext rfl rfl vs s

/-- Settles O10: the effect of SMSEED; and SMLOAD expands to it. -/
theorem smseedStoresLaneZero : Obligations.SmseedStoresLaneZero :=
  ⟨by decide, fun _ => exec_of_executed rfl, fun _ _ => rfl⟩

/-- Settles O11: the effect of SMNEXT, the step's two results by their equations. -/
theorem smnextStepsThenFinalizes : Obligations.SmnextStepsThenFinalizes := by
  refine ⟨by decide, fun s => ?_, by decide, by decide, smstep_zero⟩
  rw [exec_of_executed rfl, effect, smstep_fst, smstep_snd, State.writeSM_respond]

/-- Settles O14: SMSEED of the saved word makes the two units' `SM` equal. -/
theorem smsaveRespondsSm : Obligations.SmsaveRespondsSm := by
  refine ⟨by decide, fun _ => exec_of_executed rfl, fun s u hu => ?_, exec_of_executed rfl,
    fun s => ?_⟩
  · refine ⟨effect .smnext s, effect .smnext (effect .smseed u), ⟨.ok, [(smstep s.sm).2]⟩,
      exec_of_executed rfl, ?_, ?_, ?_, ?_⟩
    · rw [execList_cons_of_executed rfl, execList_cons_of_executed rfl, execList_nil]
    · simp [effect, hu]
    · simp [effect]
    · simp [effect, hu]
  · refine ⟨effect .smsave (effect .smnext (effect .smseed { s with op := Quad.zero })), ?_, ?_⟩
    · rw [execList_cons_of_executed rfl, execList_cons_of_executed rfl,
        execList_cons_of_executed rfl, execList_nil]
    · simp [effect, Quad.zero, smstep_zero]

/-- Settles O15: the effect of SMEQ, the comparison's word by `boolWord_beq`. -/
theorem smeqComparesAllBits : Obligations.SmeqComparesAllBits := by
  refine ⟨by decide, fun s => ?_⟩
  rw [exec_of_executed rfl, effect, boolWord_beq]
  rfl

end Sys2Proof.Proofs
end

section
/-! PROOFS. The xoshiro256 family (spec/41_xoshiro256.md): the transition has the inverse that R123
gives, so that only the zero state steps to zero (R126), and what the family's commands leave and answer
(R121 to R128). -/

namespace Sys2Proof

/-- The four words of a list in order say which group it was. -/
theorem Quad.toList_injective : Function.Injective Quad.toList := by
  intro a b h
  simpa [Quad.toList, Quad.ext_iff] using h

namespace Machine

/-! ### The inverse of the transition (R123) -/

/-- Two rotations that make up a whole turn undo each other. -/
theorem rotl_rotl_of_add_eq {m n : Nat} (hm : 0 < m) (hn : 0 < n) (h : m + n = 64) (x : Word) :
    rotl (rotl x n) m = x := by
  refine BitVec.eq_of_getLsbD_eq fun i hi => ?_
  rw [getLsbD_rotl _ m i (by omega) hi]
  split
  · rw [getLsbD_rotl x n _ (by omega) (by omega), if_neg (by omega)]
    congr 1
    omega
  · rw [getLsbD_rotl x n _ (by omega) (by omega), if_pos (by omega)]
    congr 1
    omega

theorem shl_shl (x : Word) (m n : Nat) : shl (shl x m) n = shl x (m + n) :=
  (BitVec.shiftLeft_add x m n).symm

/-- The word `x` with `y = x ^ (x << 17)`, as R123 gets it back from `y`. -/
def undoXorShl (y : Word) : Word := y ^^^ shl y 17 ^^^ shl y 34 ^^^ shl y 51

/-- The shifted copies cancel in pairs, and the last is shifted by 68, past bit 63. -/
theorem undoXorShl_xor_shl (y : Word) : undoXorShl y ^^^ shl (undoXorShl y) 17 = y := by
  have hlast : shl y 68 = 0#64 := BitVec.shiftLeft_eq_zero (by decide)
  simp only [undoXorShl, shl_xor, shl_shl, Nat.reduceAdd, hlast, BitVec.xor_zero]
  generalize shl y 17 = a, shl y 34 = b, shl y 51 = c
  calc y ^^^ a ^^^ b ^^^ c ^^^ (a ^^^ b ^^^ c)
      = y ^^^ (a ^^^ b ^^^ c) ^^^ (a ^^^ b ^^^ c) := by ac_rfl
    _ = y := xor_cancel_right _ _

theorem undoXorShl_xor (x y : Word) : undoXorShl (x ^^^ y) = undoXorShl x ^^^ undoXorShl y := by
  simp only [undoXorShl, shl_xor]
  generalize shl x 17 = a, shl x 34 = b, shl x 51 = c, shl y 17 = d, shl y 34 = e, shl y 51 = f
  ac_rfl

theorem undoXorShl_shl (x : Word) (n : Nat) : undoXorShl (shl x n) = shl (undoXorShl x) n := by
  simp only [undoXorShl, shl_xor, shl_shl, Nat.add_comm n]

theorem undoXorShl_of_xor_shl (x : Word) : undoXorShl (x ^^^ shl x 17) = x := by
  rw [undoXorShl_xor, undoXorShl_shl, undoXorShl_xor_shl]

/-- The inverse of the transition, as R123 gives it. -/
def transitionInverse (n : Quad) : Quad :=
  let x := rotl n.w3 19
  let s0 := n.w0 ^^^ x
  let s1 := undoXorShl (n.w1 ^^^ n.w2)
  ⟨s0, s1, n.w1 ^^^ s0 ^^^ s1, x ^^^ s1⟩

theorem transition_eq_parallel (s : Quad) : transition s =
    ⟨s.w0 ^^^ s.w1 ^^^ s.w3, s.w0 ^^^ s.w1 ^^^ s.w2, s.w0 ^^^ s.w2 ^^^ shl s.w1 17,
      rotl (s.w1 ^^^ s.w3) 45⟩ := by
  apply Quad.ext
  · simp only [transition_w0]; ac_rfl
  · simp only [transition_w1]; ac_rfl
  · simp only [transition_w2]; rw [BitVec.xor_comm s.w2]
  · simp only [transition_w3]; rw [BitVec.xor_comm s.w3]

theorem transitionInverse_transition (s : Quad) : transitionInverse (transition s) = s := by
  obtain ⟨a, b, c, d⟩ := s
  have hx : rotl (rotl (b ^^^ d) 45) 19 = b ^^^ d := rotl_rotl_of_add_eq (by decide) (by decide) rfl _
  have hy : a ^^^ b ^^^ c ^^^ (a ^^^ c ^^^ shl b 17) = b ^^^ shl b 17 := by
    generalize shl b 17 = e
    calc _ = b ^^^ e ^^^ (a ^^^ c) ^^^ (a ^^^ c) := by ac_rfl
      _ = b ^^^ e := xor_cancel_right _ _
  have h0 : a ^^^ b ^^^ d ^^^ (b ^^^ d) = a := by rw [BitVec.xor_assoc a, xor_cancel_right]
  have h2 : a ^^^ b ^^^ c ^^^ a ^^^ b = c := by
    calc _ = c ^^^ (a ^^^ b) ^^^ (a ^^^ b) := by ac_rfl
      _ = c := xor_cancel_right _ _
  have h3 : b ^^^ d ^^^ b = d := by rw [BitVec.xor_comm b, xor_cancel_right]
  simp only [transition_eq_parallel, transitionInverse, hx, hy, undoXorShl_of_xor_shl, h0, h2, h3]

theorem transition_transitionInverse (n : Quad) : transition (transitionInverse n) = n := by
  obtain ⟨a, b, c, d⟩ := n
  have hy := undoXorShl_xor_shl (b ^^^ c)
  have hd : rotl (rotl d 19) 45 = d := rotl_rotl_of_add_eq (by decide) (by decide) rfl _
  simp only [transition_eq_parallel, transitionInverse]
  generalize rotl d 19 = x at *
  generalize undoXorShl (b ^^^ c) = s1 at *
  generalize shl s1 17 = e at *
  apply Quad.ext
  · calc a ^^^ x ^^^ s1 ^^^ (x ^^^ s1) = a ^^^ (x ^^^ s1) ^^^ (x ^^^ s1) := by ac_rfl
      _ = a := xor_cancel_right _ _
  · calc a ^^^ x ^^^ s1 ^^^ (b ^^^ (a ^^^ x) ^^^ s1)
        = b ^^^ (a ^^^ x ^^^ s1) ^^^ (a ^^^ x ^^^ s1) := by ac_rfl
      _ = b := xor_cancel_right _ _
  · calc a ^^^ x ^^^ (b ^^^ (a ^^^ x) ^^^ s1) ^^^ e
        = b ^^^ (s1 ^^^ e) ^^^ (a ^^^ x) ^^^ (a ^^^ x) := by ac_rfl
      _ = c ^^^ b ^^^ b := by rw [xor_cancel_right, hy]; ac_rfl
      _ = c := xor_cancel_right _ _
  · rw [BitVec.xor_comm s1, xor_cancel_right]
    exact hd

theorem transition_injective : Function.Injective transition :=
  Function.LeftInverse.injective transitionInverse_transition

/-- The worked example of R123, which R125 and R127 use again. -/
theorem transition_example :
    transition ⟨1, 2, 3, 4⟩ = ⟨0x0000000000000007, 0, 0x0000000000040002, 0x0000c00000000000⟩ := by
  decide

/-! ### The zero state (R126) -/

theorem transition_eq_zero_iff {q : Quad} : transition q = Quad.zero ↔ q = Quad.zero :=
  ⟨fun h => transition_injective (h.trans transition_zero.symm), fun h => h ▸ transition_zero⟩

theorem outOf_zero (v : Variant) : outOf v Quad.zero = 0 := by
  cases v <;> decide

/-- Whatever bits are left, zeros are accumulated and the cursor stays at zero. -/
theorem jumpLoop_zero (bits : List Bool) : jumpLoop bits Quad.zero Quad.zero = Quad.zero := by
  induction bits with
  | nil => rw [jumpLoop_nil]
  | cons b bits ih => rw [jumpLoop_cons, Quad.xor_zero, ite_self, transition_zero, ih]

theorem jumpBy_zero (p : Quad) : jumpBy p Quad.zero = Quad.zero := jumpLoop_zero (polyBits p)

/-! ### One command -/

theorem State.writeS_self (s : State) : s.writeS s.xs = s := (rfl)

/-- As `State.writeSM_respond`, for a load. -/
theorem State.loadS_respond (s : State) (q : Quad) (ws : List Word) : (s.loadS q).respond ws =
    { s with xs := q, xv := true, responses := s.responses ++ [⟨.ok, ws⟩] } := (rfl)

theorem needsXV_xnext (v : Variant) : needsXV v.xnext = true := by
  cases v <;> rfl

theorem exec_of_unloaded {i : Instr} {s : State} (hneeds : needsXV i = true) (h : s.xv = false) :
    exec i s = .next (s.raise .errUninit) := by
  rw [exec_eq_execNext, execNext_of_unloaded (by simp [hneeds, h])]

theorem exec_of_loaded {i : Instr} {s : State} (h : s.xv = true) : exec i s = .next (effect i s) :=
  exec_of_executed (by simp [h])

theorem exec_xnext_of_loaded (v : Variant) {s : State} (h : s.xv = true) :
    exec v.xnext s = .next (s.xnext v) := by
  rw [exec_of_loaded h, effect_xnext]

/-- The closed form of R121: the seed expands to the first four outputs of SplitMix64. -/
theorem seedExpand_eq (v : Word) : seedExpand v =
    ⟨mix64 (v + 1 * GAMMA), mix64 (v + 2 * GAMMA), mix64 (v + 3 * GAMMA), mix64 (v + 4 * GAMMA)⟩ := by
  have hlist : (seedExpand v).toList = (smgenLoop 4 v).2 := by
    simp only [smgenLoop_succ, smgenLoop_zero]
    rfl
  apply Quad.toList_injective
  rw [hlist, smgenLoop_outputs]
  rfl

/-- Two groups compare as their words do, position by position (R128). -/
theorem boolWord_beq_quad (a b : Quad) : boolWord (a == b) =
    if a.w0 = b.w0 ∧ a.w1 = b.w1 ∧ a.w2 = b.w2 ∧ a.w3 = b.w3 then 1 else 0 := by
  simp only [boolWord, beq_iff_eq, Quad.ext_iff]

end Machine

end Sys2Proof

namespace Sys2Proof.Proofs
open Sys2Proof.Machine

/-- Settles O16: the inverse is `transitionInverse`, on both sides. -/
theorem transitionIsLinearBijection : Obligations.TransitionIsLinearBijection :=
  ⟨transition_eq_parallel, transition_xor, transition_zero, transitionInverse_transition,
    transition_transitionInverse, transition_example⟩

/-- Settles O22: a bijection takes no second state to zero; and on a unit at zero each command writes
back the words that are there. -/
theorem zeroStateIsIsolatedFixedPoint : Obligations.ZeroStateIsIsolatedFixedPoint := by
  refine ⟨fun _ => transition_eq_zero_iff, jumpBy_zero, fun s hloaded hzero => ?_⟩
  have hstep : transition s.xs = s.xs := by rw [hzero, transition_zero]
  have hjump : ∀ p, jumpBy p s.xs = s.xs := fun p => by rw [hzero, jumpBy_zero]
  have hout : ∀ v, outOf v s.xs = 0 := fun v => by rw [hzero, outOf_zero]
  refine ⟨fun v => ?_, ?_, ?_⟩
  · rw [exec_xnext_of_loaded v hloaded, State.xnext, hstep, hout, State.writeS_self]
    rfl
  · rw [exec_of_loaded hloaded, effect, hjump, State.writeS_self]
    rfl
  · rw [exec_of_loaded hloaded, effect, hjump, State.writeS_self]
    rfl

/-- Settles O23: the four saved words are `S`, so that XLOAD of them gives the second unit the `S` of the
first. -/
theorem xsaveRespondsTheFourWords : Obligations.XsaveRespondsTheFourWords := by
  refine ⟨by decide, fun s h => exec_of_loaded h, fun s h => exec_of_unloaded rfl h,
    fun s t u hloaded hexec hsaved => ?_, fun s v => ?_⟩
  · obtain rfl : effect .xsave s = t := Host.Outcome.next.inj ((exec_of_loaded hloaded).symm.trans hexec)
    have hwords : s.xs = u.op := Quad.toList_injective (by simpa [effect] using hsaved)
    refine ⟨⟨effect .xload u, exec_of_executed rfl, hwords.symm, rfl⟩, fun v => ?_⟩
    obtain ⟨u', hu', hresponses⟩ := execList_load_xnext (i := .xload) rfl rfl [v] u
    refine ⟨s.xnext v, u', ⟨.ok, [outOf v s.xs]⟩, exec_xnext_of_loaded v hloaded, rfl, hu', ?_⟩
    rw [hresponses, hwords]
    rfl
  · have hload : (effect .xload { s with op := ⟨1, 2, 3, 4⟩ }).xs = ⟨1, 2, 3, 4⟩ := rfl
    refine ⟨effect .xsave ((effect .xload { s with op := ⟨1, 2, 3, 4⟩ }).xnext v), ?_, ?_⟩
    · rw [execList_cons_of_executed rfl, execList_cons_of_executed (by simp [effect]), effect_xnext,
        execList_cons_of_executed rfl, execList_nil]
    · rw [effect_responses_eq, State.xnext_responses, effect_responses_eq, effectWords, effectWords,
        State.xnext_xs, hload, transition_example]
      simp [Quad.toList]

/-- Settles O17: Plus as a number, the other two by definition, and the rule's fixed words. -/
theorem outputFunctionsWrap : Obligations.OutputFunctionsWrap :=
  ⟨fun s => toNat_add64 s.w0 s.w3, fun _ => rfl, fun _ => rfl, rfl, rfl, rfl, by decide, outOf_zero,
    by decide, by decide, by decide, by decide, by decide, by decide⟩

/-- Settles O18: the effect of XSEED, the seed expanded in closed form. -/
theorem xseedExpandsTheSeed : Obligations.XseedExpandsTheSeed := by
  refine ⟨by decide, fun s => ?_, by decide⟩
  rw [exec_of_executed rfl, effect, State.lane0_eq, seedExpand_eq, State.loadS_respond]

/-- Settles O19: the effect of XLOAD; and XRESTORE expands to it. -/
theorem xloadStoresLanesVerbatim : Obligations.XloadStoresLanesVerbatim :=
  ⟨by decide, fun _ => exec_of_executed rfl, fun _ _ => rfl⟩

/-- Settles O20: `State.xnext` of each variant; the second XNEXT sees the state that the first left. -/
theorem xnextRespondsFromOldState : Obligations.XnextRespondsFromOldState := by
  refine ⟨by decide, by decide, by decide, fun s h => ?_,
    fun s v h => exec_of_unloaded (needsXV_xnext v) h, fun s v w hw => ?_⟩
  · refine ⟨exec_xnext_of_loaded .plus h, exec_xnext_of_loaded .plusPlus h,
      exec_xnext_of_loaded .starStar h, ?_⟩
    exact execList_map_xnext [.plus, .starStar] h
  · have hout : outOf v ⟨1, 2, 3, 4⟩ = w := by
      rcases hw with ⟨rfl, rfl⟩ | ⟨rfl, rfl⟩ | ⟨rfl, rfl⟩ <;> decide
    rw [exec_xnext_of_loaded v rfl, State.xnext, hout, transition_example]
    rfl

/-- Settles O24: the effect of XEQ, the comparison's word by `boolWord_beq_quad`. -/
theorem xeqComparesWordByWord : Obligations.XeqComparesWordByWord := by
  refine ⟨by decide, fun s h => ?_, fun s h => exec_of_unloaded rfl h⟩
  rw [exec_of_loaded h, effect, boolWord_beq_quad]
  rfl

end Sys2Proof.Proofs
end

section
/-! PROOFS. The jump engine (spec/42_jump.md): the loop of R150 accumulates the stepped states over the
set bits, and it commutes with every linear map that commutes with the transition (R151). -/

namespace Sys2Proof.Machine

/-! ### The bits of a polynomial (R150) -/

theorem polyBits_eq_flatMap (p : Quad) : polyBits p = p.toList.flatMap wordBits := by
  simp [polyBits, Quad.toList]

theorem length_polyBits (p : Quad) : (polyBits p).length = 256 := by
  simp [polyBits]

theorem getD_wordBits (w : Word) (k : Nat) : (wordBits w).getD k false = w.getLsbD k := by
  rcases Nat.lt_or_ge k 64 with hk | hk
  · simp [wordBits, hk]
  · rw [List.getD_eq_default _ _ (by simpa using hk), BitVec.getLsbD_of_ge w k hk]

/-- Bit k of a row of words stands in word k / 64, at k % 64. -/
theorem getD_flatMap_wordBits (ws : List Word) (k : Nat) :
    (ws.flatMap wordBits).getD k false = (ws.getD (k / 64) 0).getLsbD (k % 64) := by
  induction ws generalizing k with
  | nil => simp
  | cons w ws ih =>
    rw [List.flatMap_cons]
    rcases Nat.lt_or_ge k 64 with hk | hk
    · rw [List.getD_append _ _ _ _ (by simpa using hk), getD_wordBits, Nat.div_eq_of_lt hk,
        Nat.mod_eq_of_lt hk, List.getD_cons_zero]
    · rw [List.getD_append_right _ _ _ _ (by simpa using hk), length_wordBits, ih,
        Nat.div_eq_sub_div (by decide) hk, Nat.mod_eq_sub_mod hk, List.getD_cons_succ]

theorem getD_polyBits (p : Quad) (k : Nat) :
    (polyBits p).getD k false = (p.toList.getD (k / 64) 0).getLsbD (k % 64) := by
  rw [polyBits_eq_flatMap, getD_flatMap_wordBits]

/-! ### What the loop accumulates (R151) -/

/-- The loop takes up, in order, the cursor stepped k times for every set bit k. -/
theorem jumpLoop_eq_foldl (bits : List Bool) (acc cur : Quad) :
    jumpLoop bits acc cur =
      (((List.range bits.length).filter fun k => bits.getD k false).map
        fun k => stepsOn k cur).foldl Quad.xor acc := by
  induction bits generalizing acc cur with
  | nil => simp
  | cons b bits ih =>
    rw [jumpLoop_cons, ih, List.length_cons, List.range_succ_eq_map, List.filter_cons]
    cases b <;> simp [List.filter_map, Function.comp_def, stepsOn_succ']

theorem jumpLoop_xor (bits : List Bool) (acc acc' cur cur' : Quad) :
    jumpLoop bits (acc.xor acc') (cur.xor cur') =
      (jumpLoop bits acc cur).xor (jumpLoop bits acc' cur') := by
  induction bits generalizing acc acc' cur cur' with
  | nil => simp
  | cons b bits ih =>
    have hacc : (if b then (acc.xor acc').xor (cur.xor cur') else acc.xor acc') =
        (if b then acc.xor cur else acc).xor (if b then acc'.xor cur' else acc') := by
      cases b
      · rfl
      · simp [Quad.xor_assoc, Quad.xor_left_comm]
    rw [jumpLoop_cons, jumpLoop_cons, jumpLoop_cons, transition_xor, hacc, ih]

theorem jumpBy_xor (p a b : Quad) : jumpBy p (a.xor b) = (jumpBy p a).xor (jumpBy p b) := by
  have hacc := jumpLoop_xor (polyBits p) Quad.zero Quad.zero a b
  rwa [Quad.xor_zero] at hacc

section CommutingMap
variable {f : Quad → Quad}

/-- A linear map that commutes with the transition passes through the loop. -/
theorem jumpLoop_map (hxor : ∀ a b, f (a.xor b) = (f a).xor (f b))
    (hstep : ∀ s, f (transition s) = transition (f s)) (bits : List Bool) (acc cur : Quad) :
    jumpLoop bits (f acc) (f cur) = f (jumpLoop bits acc cur) := by
  induction bits generalizing acc cur with
  | nil => simp
  | cons b bits ih => rw [jumpLoop_cons, jumpLoop_cons, ← hxor, ← hstep, ← apply_ite f, ih]

theorem jumpBy_map (hxor : ∀ a b, f (a.xor b) = (f a).xor (f b))
    (hstep : ∀ s, f (transition s) = transition (f s)) (p s : Quad) :
    jumpBy p (f s) = f (jumpBy p s) := by
  have hzero : f Quad.zero = Quad.zero := by
    rw [← Quad.xor_self Quad.zero, hxor, Quad.xor_self, Quad.xor_self]
  rw [jumpBy, jumpBy, ← jumpLoop_map hxor hstep, hzero]

end CommutingMap

theorem jumpBy_transition (p s : Quad) : jumpBy p (transition s) = transition (jumpBy p s) :=
  jumpBy_map transition_xor (fun _ => rfl) p s

theorem jumpBy_jumpBy_comm (p q s : Quad) : jumpBy p (jumpBy q s) = jumpBy q (jumpBy p s) :=
  jumpBy_map (jumpBy_xor q) (jumpBy_transition q) p s

/-- A jump as the polynomial in the transition. -/
theorem jumpBy_eq_foldl (p s : Quad) : jumpBy p s =
    (((List.range 256).filter fun k => (p.toList.getD (k / 64) 0).getLsbD (k % 64)).map
      fun k => stepsOn k s).foldl Quad.xor Quad.zero := by
  simp only [jumpBy, jumpLoop_eq_foldl, length_polyBits, getD_polyBits]

end Sys2Proof.Machine

namespace Sys2Proof.Proofs
open Sys2Proof.Machine

/-- Settles O25: a jump passes through every linear map that commutes with the transition; the transition
is one, and then so is any other jump. -/
theorem jumpIsPolynomialInTransition : Obligations.JumpIsPolynomialInTransition :=
  ⟨jumpBy_eq_foldl, jumpBy_xor, jumpBy_transition, jumpBy_jumpBy_comm⟩

end Sys2Proof.Proofs
end

section
/-! PROOFS. The utility family (spec/43_utility.md): none of its commands needs `S`, so each has its effect
in every state, and the effect is one response and nothing else (R170, R171, R173, R174). -/

namespace Sys2Proof.Proofs
open Sys2Proof.Machine

/-- Settles O31: the effects of GMIN and GMAX, which read no register. -/
theorem rangeCommandsAreConstant : Obligations.RangeCommandsAreConstant :=
  ⟨by decide, by decide, fun _ => ⟨exec_of_executed rfl, exec_of_executed rfl⟩⟩

/-- Settles O34: the effect of U2D on lane 0; and the table's patterns, each computed by `u2dBits`. -/
theorem u2dRespondsTheDouble : Obligations.U2dRespondsTheDouble := by
  refine ⟨by decide, fun s => ?_, by decide, by decide, by decide, by decide, by decide, by decide,
    by decide⟩
  rw [exec_of_executed rfl, effect, State.lane0_eq]
  rfl

/-- Settles O35: the effect of STAT, the status word being `XV` as a word. -/
theorem statRespondsXv : Obligations.StatRespondsXv := by
  refine ⟨by decide, fun s => ?_⟩
  rw [exec_of_executed rfl, effect, State.statusWord_eq, boolWord]
  rfl

end Sys2Proof.Proofs
end

section
/-! PROOFS. Errors (spec/60_exceptions.md): the status of every command is the priority of R195, and a
command answered with an error only adds its response (R193), so that it leaves no record (R194). -/

namespace Sys2Proof.Machine

/-! ### The status by priority (R191, R192, R195) -/

theorem statusOf_of_illegal {w : CmdWord} {why : IllegalWord} (h : decode w = .illegal why)
    (xv : Bool) : statusOf xv w = .errIllegal := by
  rw [statusOf, h]

theorem statusOf_of_decode {w : CmdWord} {i : Instr} (h : decode w = .instr i) (xv : Bool) :
    statusOf xv w = if needsXV i && !xv then .errUninit else .ok := by
  rw [statusOf, h]

theorem statusOf_eq_errIllegal_iff {xv : Bool} {w : CmdWord} :
    statusOf xv w = .errIllegal ↔ (decode w).isLegal = false := by
  cases hw : decode w with
  | illegal why => simp [statusOf_of_illegal hw, Decoded.isLegal]
  | instr i => cases hi : needsXV i && !xv <;> simp [statusOf_of_decode hw, hi, Decoded.isLegal]

theorem statusOf_eq_errUninit_iff {xv : Bool} {w : CmdWord} :
    statusOf xv w = .errUninit ↔ ∃ i, decode w = .instr i ∧ needsXV i = true ∧ xv = false := by
  cases hw : decode w with
  | illegal why => simp [statusOf_of_illegal hw]
  | instr i => simp [statusOf_of_decode hw]

theorem statusOf_eq_ok_iff {xv : Bool} {w : CmdWord} :
    statusOf xv w = .ok ↔ ∃ i, decode w = .instr i ∧ (needsXV i = true → xv = true) := by
  cases hw : decode w with
  | illegal why => simp [statusOf_of_illegal hw]
  | instr i => simp [statusOf_of_decode hw]

theorem answer_status {w : CmdWord} {i : Instr} (h : decode w = .instr i) (s : State) :
    (answer i s).status = statusOf s.xv w := by
  rw [statusOf_of_decode h, answer, apply_ite Response.status]

/-! ### One step -/

/-- A command on the port gets one response, with the status of the priority. -/
theorem step_answers_statusOf {s : State} {c : Command} {rest : List HostMove}
    (h : s.pending = .command c :: rest) :
    ∃ t r, step s = .next t ∧ t.responses = s.responses ++ [r] ∧ r.status = statusOf s.xv c.word := by
  cases hw : decode c.word with
  | illegal why => exact ⟨_, _, step_of_illegal h hw, rfl, (statusOf_of_illegal hw s.xv).symm⟩
  | instr i => exact ⟨_, _, step_of_decode h hw, execNext_responses i _, answer_status hw _⟩

/-- A command whose status is an error does nothing but take that error. -/
theorem step_of_error {s : State} {c : Command} {rest : List HostMove}
    (h : s.pending = .command c :: rest) (herr : statusOf s.xv c.word ≠ .ok) :
    step s = .next ((s.accept c rest).raise (statusOf s.xv c.word)) := by
  cases hw : decode c.word with
  | illegal why => rw [step_of_illegal h hw, statusOf_of_illegal hw]
  | instr i =>
    have hst := statusOf_of_decode hw s.xv
    cases hi : needsXV i && !s.xv
    · exact absurd (by rw [hst, hi]; rfl) herr
    · rw [step_of_decode h hw, execNext_of_unloaded (s := s.accept c rest) hi, hst, if_pos hi]

/-! ### Runs -/

/-- `Responds.cons` both ways: after a step that answers `r`, a run answers `r` and then what it
answers from there. -/
theorem responds_cons_iff {s t : State} {r : Response} {k : Nat} {rs : List Response}
    (hstep : step s = .next t) (hr : t.responses = s.responses ++ [r]) :
    Responds (k + 1) s (r :: rs) ↔ Responds k t rs := by
  simp only [Responds, run_succ_of_step hstep, hr, List.append_assoc, List.singleton_append]

theorem Indistinct.symm {s t : State} (h : Indistinct s t) : Indistinct t s := by
  obtain ⟨hsm, hxv, hxs, hpending⟩ := h
  exact ⟨hsm.symm, hxv.symm, fun ht => (hxs (hxv.trans ht)).symm, hpending.symm⟩

theorem Indistinct.responds_iff {s t : State} (h : Indistinct s t) {k : Nat} {rs : List Response} :
    Responds k s rs ↔ Responds k t rs :=
  ⟨h.responds, h.symm.responds⟩

end Sys2Proof.Machine

namespace Sys2Proof.Proofs
open Sys2Proof.Machine

/-- Settles O58: the codes one by one. -/
theorem statusCodesAreThree : Obligations.StatusCodesAreThree :=
  ⟨rfl, rfl, rfl, fun e => by cases e <;> decide⟩

/-- Settles O38: the status is `statusOf`, and an iff for each of its values. -/
theorem statusIsByPriority : Obligations.StatusIsByPriority := by
  refine ⟨fun i => by cases i <;> simp [needsXV], fun s c rest h => ?_⟩
  obtain ⟨t, r, hstep, hresp, hstatus⟩ := step_answers_statusOf h
  exact ⟨t, r, hstep, hresp, hstatus ▸ statusOf_eq_errIllegal_iff,
    hstatus ▸ statusOf_eq_errUninit_iff, hstatus ▸ statusOf_eq_ok_iff⟩

/-- Settles O39: the response's status is `statusOf`, and an error leaves what `step_of_error` says. -/
theorem errorsChangeNoState : Obligations.ErrorsChangeNoState := by
  intro s t c rest r h hstep hresp herr
  obtain ⟨t', r', hstep', hresp', hstatus⟩ := step_answers_statusOf h
  obtain rfl : t' = t := Host.Outcome.next.inj (hstep'.symm.trans hstep)
  obtain rfl : r' = r := by simpa using hresp'.symm.trans hresp
  obtain rfl := Host.Outcome.next.inj ((step_of_error h (hstatus ▸ herr)).symm.trans hstep)
  obtain rfl : ⟨statusOf s.xv c.word, []⟩ = r' := by simpa using hresp
  exact ⟨rfl, rfl⟩

/-- Settles O40: the failed command leaves a unit indistinct from one that never got it. -/
theorem errorsLeaveNoRecord : Obligations.ErrorsLeaveNoRecord := by
  intro s c rest herr k rs
  rw [responds_cons_iff (step_of_error (s := { s with pending := .command c :: rest }) rfl herr) rfl]
  refine Indistinct.responds_iff ?_
  exact ⟨rfl, rfl, fun _ => rfl, rfl⟩

end Sys2Proof.Proofs
end

section
/-! PROOFS. Commands and their words both ways (spec/30_encoding.md R70 to R75), and the rows of the
opcode table as a partition of the legal words (R74). -/

namespace Sys2Proof

/-- The four stored bytes of a command word decode to what the word decodes to (R55). -/
theorem decodeBytes_cmdBytes_append (w : CmdWord) (rest : List Byte) :
    decodeBytes (cmdBytes w ++ rest) = (decode w, rest) := by
  have hbytes : decodeBytes (cmdBytes w ++ rest) = (decode (cmdOfBytes (cmdBytes w)), rest) := rfl
  rw [hbytes, cmdOfBytes_cmdBytes]

/-! ### The rows of the opcode table (R74) -/

theorem row_mem_opcodeRows (i : Instr) : i.row ∈ opcodeRows := by
  cases i with
  | smgen n => exact List.mem_of_getElem? (i := 2) rfl
  | smseed | smnext | smsave | smeq | xseed | xload | xnextP | xnextPP | xnextSS | xjump | xljump
  | xsave | xeq | gmin | gmax | u2d | stat => decide

theorem encode_and_row_mask {i : Instr} (h : i.WellFormed) :
    encode i &&& i.row.mask = i.row.pattern := by
  cases i with
  | smgen n => exact Laws.RowMatches.smgen n h
  | smseed | smnext | smsave | smeq | xseed | xload | xnextP | xnextPP | xnextSS | xjump | xljump
  | xsave | xeq | gmin | gmax | u2d | stat => decide

/-- One command of each row of the table; SMGEN's row has the other counts too. -/
def rowCommands : List Instr :=
  [.smseed, .smnext, .smgen 0, .smsave, .smeq, .xseed, .xload, .xnextP, .xnextPP, .xnextSS, .xjump,
    .xljump, .xsave, .xeq, .gmin, .gmax, .u2d, .stat]

theorem map_row_rowCommands : rowCommands.map Instr.row = opcodeRows := (rfl)

/-- Every row but SMGEN's fixes all 32 bits of its one word (R71, R72). -/
theorem row_of_rowCommand : ∀ i ∈ rowCommands, i ≠ .smgen 0 →
    i.WellFormed ∧ i.row.mask = BitVec.allOnes 32 ∧ i.row.pattern = encode i := by decide

/-- A field on which the mask is all ones is the pattern's. -/
theorem extractLsb'_of_and_eq {m a n : Nat} {w mask pattern : BitVec m} (h : w &&& mask = pattern)
    (hmask : mask.extractLsb' a n = BitVec.allOnes n) :
    w.extractLsb' a n = pattern.extractLsb' a n := by
  rw [← h, BitVec.extractLsb'_and, hmask, BitVec.and_allOnes]

/-- A word that matches SMGEN's row is the word of SMGEN with the count in its field N (R73). -/
theorem encode_smgen_fieldN {w : CmdWord} (h : w &&& 0xff00ffff#32 = 0x00000012#32) :
    encode (.smgen (fieldN w).toNat) = w := by
  have hopc : fieldOPC w = 0x12 := extractLsb'_of_and_eq h (by decide)
  have hvar : fieldVAR w = 0 := extractLsb'_of_and_eq h (by decide)
  have hpack : packFields (fieldOPC w) (fieldVAR w) (fieldN w) = w :=
    packFields_fields (extractLsb'_of_and_eq h (by decide)) (extractLsb'_of_and_eq h (by decide))
  rw [hopc, hvar] at hpack
  simpa [encode] using hpack

/-- A word that matches a row is the word of a command of that row. -/
theorem exists_command_of_row {w : CmdWord} {r : OpcodeRow} (hr : r ∈ opcodeRows)
    (h : w &&& r.mask = r.pattern) : ∃ i : Instr, i.WellFormed ∧ encode i = w ∧ i.row = r := by
  rw [← map_row_rowCommands] at hr
  obtain ⟨i, hi, rfl⟩ := List.mem_map.1 hr
  by_cases hgen : i = .smgen 0
  · subst hgen
    exact ⟨.smgen (fieldN w).toNat, decide_eq_true (fieldN w).isLt, encode_smgen_fieldN h, rfl⟩
  · obtain ⟨hwf, hmask, hpattern⟩ := row_of_rowCommand i hi hgen
    rw [hmask, BitVec.and_allOnes, hpattern] at h
    exact ⟨i, hwf, h.symm, rfl⟩

end Sys2Proof

namespace Sys2Proof.Proofs
open Sys2Proof.Machine

/-- Settles O1: the word by `decode_encode`, and the stored bytes spell the word. -/
theorem decodeInvertsEncode : Obligations.DecodeInvertsEncode := by
  intro i hwf
  refine ⟨decode_encode hwf, fun rest => ?_⟩
  rw [encodeBytes, decodeBytes_cmdBytes_append, decode_encode hwf]

/-- Settles O2: the fields of a legal word, put together again. -/
theorem encodeInvertsDecode : Obligations.EncodeInvertsDecode :=
  fun _ _ => wellFormed_and_encode_of_decode

/-- Settles O3: the words of the table, each decoded. -/
theorem opcodeMapWordsDecode : Obligations.OpcodeMapWordsDecode := by
  unfold Obligations.OpcodeMapWordsDecode
  decide

/-- Settles O5: a word that matches a row is the word of a command of that row, and `decode` tells the
words of two commands apart. -/
theorem opcodeRowsPartitionLegalWords : Obligations.OpcodeRowsPartitionLegalWords := by
  refine fun w => ⟨⟨fun hlegal => ?_, ?_⟩, ?_, fun i hi => ?_⟩
  · obtain ⟨i, hwf, rfl⟩ := (isLegal_decode_iff w).1 hlegal
    exact ⟨i.row, row_mem_opcodeRows i, encode_and_row_mask hwf⟩
  · rintro ⟨r, hr, hmatch⟩
    obtain ⟨i, hwf, hi, _⟩ := exists_command_of_row hr hmatch
    exact (isLegal_decode_iff w).2 ⟨i, hwf, hi⟩
  · intro r hr r' hr' hmatch hmatch'
    obtain ⟨i, hwf, rfl, rfl⟩ := exists_command_of_row hr hmatch
    obtain ⟨j, hwf', hj, rfl⟩ := exists_command_of_row hr' hmatch'
    have hij : Decoded.instr j = .instr i := by rw [← decode_encode hwf', hj, decode_encode hwf]
    rw [Decoded.instr.inj hij]
  · obtain ⟨hwf, rfl⟩ := wellFormed_and_encode_of_decode hi
    exact ⟨row_mem_opcodeRows i, encode_and_row_mask hwf⟩

end Sys2Proof.Proofs
end

section
/-! PROOFS. What every step keeps and what every command leaves alone: the form of the responses (R53),
the frame of a command (R30 to R34), when `XV` changes (R34), and that every run completes (R231). -/

namespace Sys2Proof.Machine

/-! ### The frame of a command (R31, R32, R34) -/

/-- A command is refused and only takes the error, or it has its effect. -/
theorem execNext_cases (i : Instr) (s : State) :
    execNext i s = s.raise .errUninit ∨ execNext i s = effect i s := by
  cases h : needsXV i && !s.xv
  · exact .inr (execNext_of_executed h)
  · exact .inl (execNext_of_unloaded h)

theorem effect_sm_of_not_writesSM {i : Instr} (h : writesSM i = false) (s : State) :
    (effect i s).sm = s.sm := by
  cases i with
  | smseed | smnext | smgen => cases h
  | smsave | smeq | xseed | xload | xnextP | xnextPP | xnextSS | xjump | xljump | xsave | xeq | gmin
  | gmax | u2d | stat => simp [effect]

theorem effect_xs_of_not_writesS {i : Instr} (h : writesS i = false) (s : State) :
    (effect i s).xs = s.xs := by
  cases i with
  | xseed | xload | xnextP | xnextPP | xnextSS | xjump | xljump => cases h
  | smseed | smnext | smgen | smsave | smeq | xsave | xeq | gmin | gmax | u2d | stat => simp [effect]

theorem loadsS_of_needsXV {i : Instr} (h : needsXV i = true) : loadsS i = false := by
  cases i with
  | xseed | xload => cases h
  | smseed | smnext | smgen | smsave | smeq | xnextP | xnextPP | xnextSS | xjump | xljump | xsave | xeq
  | gmin | gmax | u2d | stat => rfl

theorem loadsS_eq_true_iff {i : Instr} : loadsS i = true ↔ i = .xseed ∨ i = .xload := by
  cases i <;> simp [loadsS]

/-- A load needs no loaded `S`, and so is never refused (R195). -/
theorem execNext_xv (i : Instr) (s : State) : (execNext i s).xv = (loadsS i || s.xv) := by
  cases h : needsXV i && !s.xv
  · rw [execNext_of_executed h, effect_xv]
  · obtain ⟨hneeds, _⟩ := Bool.and_eq_true_iff.1 h
    rw [execNext_of_unloaded h, loadsS_of_needsXV hneeds, Bool.false_or, State.raise_xv]

theorem execNext_frame (i : Instr) (s : State) :
    (execNext i s).op = s.op ∧ (execNext i s).pending = s.pending ∧
      (execNext i s).resets = s.resets := by
  obtain h | h := execNext_cases i s <;> rw [h]
  · exact ⟨rfl, rfl, rfl⟩
  · exact effect_frame i s

/-! ### One accepted word -/

theorem runWord_pending {w : CmdWord} {s t : State} (h : runWord w s = .next t) :
    t.pending = s.pending := by
  cases hw : decode w with
  | illegal why =>
    obtain rfl := Host.Outcome.next.inj ((runWord_of_illegal hw s).symm.trans h)
    rfl
  | instr i =>
    obtain rfl := Host.Outcome.next.inj ((runWord_of_decode hw s).symm.trans h)
    exact (execNext_frame i s).2.1

theorem runWord_xv_iff {w : CmdWord} {s t : State} (h : runWord w s = .next t) : t.xv = true ↔
    s.xv = true ∨ decode w = .instr .xseed ∨ decode w = .instr .xload := by
  cases hw : decode w with
  | illegal why =>
    obtain rfl := Host.Outcome.next.inj ((runWord_of_illegal hw s).symm.trans h)
    simp
  | instr i =>
    obtain rfl := Host.Outcome.next.inj ((runWord_of_decode hw s).symm.trans h)
    rw [execNext_xv, Bool.or_eq_true, loadsS_eq_true_iff, Decoded.instr.injEq, Decoded.instr.injEq,
      or_comm]

/-! ### Steps and runs -/

/-- One step keeps the form that R53 gives the responses: a command adds one of that form, and no other
move adds any. -/
theorem step_keeps_inv {s t : State} (hinv : s.Inv) (h : step s = .next t) : t.Inv := by
  obtain ⟨_, rfl⟩ | ⟨c, rest, _, hrun⟩ | ⟨rest, _, rfl⟩ := step_cases h
  · exact hinv
  · obtain ⟨t', r, ht', hresp, hshape⟩ := runWord_responds c.word (s.accept c rest)
    obtain rfl : t' = t := Host.Outcome.next.inj (ht'.symm.trans hrun)
    intro r' hr'
    rw [hresp, List.mem_append, List.mem_singleton] at hr'
    obtain hold | rfl := hr'
    · exact hinv r' hold
    · exact hshape
  · exact hinv

/-- Every run completes, since every step answers a next state. -/
theorem run_next (k : Nat) (s : State) : ∃ t, Sys2Proof.core.run k s = .next t := by
  induction k generalizing s with
  | zero => exact ⟨s, run_zero s⟩
  | succ k ih =>
    obtain ⟨t, ht⟩ := step_next s
    rw [run_succ_of_step ht]
    exact ih t

/-- `S` is loaded, and no reset is to come. -/
def StaysLoaded (s : State) : Prop := s.xv = true ∧ ∀ m ∈ s.pending, m.isCommand = true

/-- Going from `s` to `t` the unit answered no command with ERR_UNINIT. -/
def NoUninitBetween (s t : State) : Prop :=
  ∃ rs, t.responses = s.responses ++ rs ∧ ∀ r ∈ rs, r.status ≠ .errUninit

theorem NoUninitBetween.refl (s : State) : NoUninitBetween s s := ⟨[], by simp⟩

theorem NoUninitBetween.trans {s t u : State} (h₁ : NoUninitBetween s t) (h₂ : NoUninitBetween t u) :
    NoUninitBetween s u := by
  obtain ⟨rs, ht, hrs⟩ := h₁
  obtain ⟨rs', hu, hrs'⟩ := h₂
  refine ⟨rs ++ rs', by rw [hu, ht, List.append_assoc], fun r hr => ?_⟩
  exact (List.mem_append.1 hr).elim (hrs r) (hrs' r)

theorem StaysLoaded.step {s t : State} (h : StaysLoaded s) (hs : step s = .next t) :
    StaysLoaded t ∧ NoUninitBetween s t := by
  obtain ⟨hxv, hmoves⟩ := h
  obtain ⟨_, rfl⟩ | ⟨c, rest, hc, hrun⟩ | ⟨rest, hreset, _⟩ := step_cases hs
  · exact ⟨⟨hxv, hmoves⟩, .refl t⟩
  · obtain ⟨t', r, ht', hresp, hstatus⟩ := step_answers_statusOf hc
    obtain rfl : t' = t := Host.Outcome.next.inj (ht'.symm.trans hs)
    have hpending : t'.pending = rest := runWord_pending hrun
    have hloaded : statusOf s.xv c.word ≠ .errUninit := by
      simp [statusOf_eq_errUninit_iff, hxv]
    refine ⟨⟨(runWord_xv_iff hrun).2 (.inl hxv), fun m hm => hmoves m ?_⟩, [r], hresp, ?_⟩
    · rw [hc]
      exact List.mem_cons_of_mem _ (hpending ▸ hm)
    · simpa [hstatus] using hloaded
  · obtain h | ⟨c, h⟩ := hreset <;> simp [h, HostMove.isCommand] at hmoves

theorem StaysLoaded.run {s t : State} (h : StaysLoaded s) {k : Nat}
    (hs : Sys2Proof.core.run k s = .next t) : NoUninitBetween s t := by
  induction k generalizing s with
  | zero =>
    obtain rfl : s = t := Host.Outcome.next.inj hs
    exact .refl s
  | succ k ih =>
    obtain ⟨s₁, hs₁⟩ := step_next s
    obtain ⟨hloaded, hfirst⟩ := h.step hs₁
    rw [run_succ_of_step hs₁] at hs
    exact hfirst.trans (ih hloaded hs)

end Sys2Proof.Machine

namespace Sys2Proof.Proofs
open Sys2Proof.Machine

/-- Settles O49: `step_keeps_inv`. -/
theorem responsesStayWellShaped : Obligations.ResponsesStayWellShaped :=
  fun _ _ => step_keeps_inv

/-- Settles O50: no response stands in the reset state. -/
theorem resetResponsesWellShaped : Obligations.ResetResponsesWellShaped := by
  intro r hr
  simp at hr

/-- Settles O36: the step on a decodable word, told as `exec` on the accepted state. -/
theorem stepRunsTheDecodedCommand : Obligations.StepRunsTheDecodedCommand := by
  intro s c rest i hp hw
  rw [step_of_decode hp hw, ← exec_eq_execNext]
  rfl

/-- Settles O37: the idle step. -/
theorem nothingHappensWithoutAMove : Obligations.NothingHappensWithoutAMove :=
  fun _ => step_of_idle

/-- Settles O48: `run_next`. -/
theorem everyRunCompletes : Obligations.EveryRunCompletes := run_next

/-- Settles O52: both kinds of reset are `State.resetUnit`. -/
theorem resetDiscardsEverything : Obligations.ResetDiscardsEverything :=
  fun _ c rest => ⟨State.resetUnit _ rest, step_of_reset (.inl rfl), step_of_reset (.inr ⟨c, rfl⟩),
    rfl, rfl, rfl, rfl⟩

/-- Settles O54: one step, and so every run, takes indistinct units to indistinct units. -/
theorem indistinctUnitsAnswerAlike : Obligations.IndistinctUnitsAnswerAlike :=
  fun _ _ _ _ h => h.responds

/-- Settles O42: a command sets `XV` when it is a load, and a reset clears it. -/
theorem xvChangesByLoadAndResetOnly : Obligations.XvChangesByLoadAndResetOnly := by
  intro s t h
  have hreset {rest : List HostMove}
      (hp : s.pending = .reset :: rest ∨ ∃ c, s.pending = .resetDuring c :: rest) : t.xv = false := by
    obtain rfl := Host.Outcome.next.inj ((step_of_reset hp).symm.trans h)
    rfl
  refine ⟨fun hp => ?_, fun c rest hp => ?_, fun rest hp => hreset (.inl hp),
    fun c rest hp => hreset (.inr ⟨c, hp⟩)⟩
  · obtain rfl := Host.Outcome.next.inj ((step_of_idle hp).symm.trans h)
    rfl
  · exact runWord_xv_iff (s := s.accept c rest) ((step_of_command hp).symm.trans h)

/-- Settles O43: the run's responses are those of `StaysLoaded.run`. -/
theorem noUninitOnceLoaded : Obligations.NoUninitOnceLoaded := by
  intro k s rs hxv hmoves hresponds
  obtain ⟨t, hrun, ht⟩ := hresponds
  obtain ⟨rs', ht', hstatus⟩ := StaysLoaded.run ⟨hxv, hmoves⟩ hrun
  rwa [List.append_cancel_left (ht'.symm.trans ht)] at hstatus

/-- Settles O45: a refused command writes nothing, and an executed one what its effect writes. -/
theorem commandsWriteOnlyTheirRegisters : Obligations.CommandsWriteOnlyTheirRegisters := by
  intro i s t h
  obtain rfl := Host.Outcome.next.inj ((exec_eq_execNext i s).symm.trans h)
  obtain ⟨hop, hpending, hresets⟩ := execNext_frame i s
  refine ⟨fun hi => ?_, fun hi => ?_, fun hi => ?_, hop, hpending, hresets, _,
    execNext_responses i s⟩
  · obtain hnext | hnext := execNext_cases i s <;> rw [hnext]
    · exact State.raise_sm s _
    · exact effect_sm_of_not_writesSM hi s
  · obtain hnext | hnext := execNext_cases i s <;> rw [hnext]
    · exact State.raise_xs s _
    · exact effect_xs_of_not_writesS hi s
  · rw [execNext_xv, hi, Bool.false_or]

/-- Settles O21: `execList_map_xnext`, whose responses are those of the statement. -/
theorem variantsShareOneStateSequence : Obligations.VariantsShareOneStateSequence :=
  fun vs _ h => execList_map_xnext vs h

end Sys2Proof.Proofs
end

section
/-! PROOFS. XJUMP and XLJUMP (spec/42_jump.md): what they leave (R154, R155), and what the loop of R150
costs (R156). -/

namespace Sys2Proof.Machine

/-! ### The loop, word by word and bit by bit (R150) -/

/-- One iteration of R150 on the accumulators and the cursor, for the bit `b`. -/
def jumpIteration (r : Quad × Quad) (b : Bool) : Quad × Quad :=
  (if b then r.1.xor r.2 else r.1, transition r.2)

/-- The loop of R150 leaves the accumulators of `jumpLoop`, and the cursor one step on for every bit. -/
theorem foldl_jumpIteration (bits : List Bool) (acc cur : Quad) :
    bits.foldl jumpIteration (acc, cur) = (jumpLoop bits acc cur, stepsOn bits.length cur) := by
  induction bits generalizing acc cur with
  | nil => simp
  | cons b bits ih =>
    rw [List.foldl_cons, jumpIteration, ih, jumpLoop_cons, List.length_cons, stepsOn_succ']

/-- The two loops of R150 as one, over all 256 bits. -/
theorem foldl_words_jumpIteration (p s : Quad) :
    (p.toList.foldl (fun r w => (List.range 64).foldl (fun r b => jumpIteration r (w.getLsbD b)) r)
      (Quad.zero, s)) = (jumpBy p s, stepsOn 256 s) := by
  have hword (r : Quad × Quad) (w : Word) :
      (List.range 64).foldl (fun r b => jumpIteration r (w.getLsbD b)) r =
        (wordBits w).foldl jumpIteration r := by
    rw [wordBits, List.foldl_map]
  simp only [hword]
  rw [← List.foldl_flatMap, ← polyBits_eq_flatMap, foldl_jumpIteration, length_polyBits, jumpBy]

end Sys2Proof.Machine

namespace Sys2Proof.Proofs
open Sys2Proof.Machine

/-- Settles O26: the effect of XJUMP; and the rule's example, evaluated. -/
theorem xjumpAppliesJumpPoly : Obligations.XjumpAppliesJumpPoly :=
  ⟨by decide, fun _ h => exec_of_loaded h, fun _ h => exec_of_unloaded rfl h, by decide +kernel⟩

/-- Settles O27: the effect of XLJUMP; and the rule's example, evaluated. -/
theorem xljumpAppliesLjumpPoly : Obligations.XljumpAppliesLjumpPoly :=
  ⟨by decide, fun _ h => exec_of_loaded h, fun _ h => exec_of_unloaded rfl h, by decide +kernel⟩

/-- Settles O30: the rule's loops leave what `foldl_words_jumpIteration` says; the set bits are
counted. -/
theorem jumpCostsAreFixed : Obligations.JumpCostsAreFixed := by
  refine ⟨fun p s => ?_, by decide +kernel, by decide +kernel⟩
  intro iteration final
  have hfinal : final = (jumpBy p s, stepsOn 256 s) := foldl_words_jumpIteration p s
  simp only [hfinal, and_self]

end Sys2Proof.Proofs
end

section
/-! PROOFS. The polynomials of the transition over GF(2): a sum of stepped states, one for each set bit
(R151), and natural numbers as polynomials, bit k the coefficient of the k-th power. -/

namespace Sys2Proof.Machine

/-! ### Sums of stepped states -/

/-- The exclusive OR of `s` stepped k times, over the k below n with `b k`. -/
def stepSum : Nat → (Nat → Bool) → Quad → Quad
  | 0, _, _ => Quad.zero
  | n + 1, b, s => (stepSum n b s).xor (if b n then stepsOn n s else Quad.zero)

theorem stepSum_succ (n : Nat) (b : Nat → Bool) (s : Quad) : stepSum (n + 1) b s =
    (stepSum n b s).xor (if b n then stepsOn n s else Quad.zero) := (rfl)

theorem stepSum_congr {n : Nat} {b c : Nat → Bool} (h : ∀ k < n, b k = c k) (s : Quad) :
    stepSum n b s = stepSum n c s := by
  induction n with
  | zero => rfl
  | succ n ih => rw [stepSum, stepSum, ih fun k hk => h k (by omega), h n (by omega)]

theorem stepSum_false (n : Nat) (s : Quad) : stepSum n (fun _ => false) s = Quad.zero := by
  induction n with
  | zero => rfl
  | succ n ih => simp [stepSum, ih]

theorem stepSum_xor (n : Nat) (b c : Nat → Bool) (s : Quad) :
    stepSum n (fun k => b k ^^ c k) s = (stepSum n b s).xor (stepSum n c s) := by
  induction n with
  | zero => exact (Quad.xor_zero Quad.zero).symm
  | succ n ih =>
    have hterm (x y : Bool) (q : Quad) : (if (x ^^ y) then q else Quad.zero) =
        (if x then q else Quad.zero).xor (if y then q else Quad.zero) := by
      cases x <;> cases y <;> simp
    rw [stepSum, stepSum, stepSum, ih, hterm, Quad.xor_assoc, Quad.xor_assoc,
      Quad.xor_left_comm (stepSum n c s)]

/-- The lowest term apart: the others are a sum from the next state. -/
theorem stepSum_succ' (n : Nat) (b : Nat → Bool) (s : Quad) :
    stepSum (n + 1) b s =
      (if b 0 then s else Quad.zero).xor (stepSum n (fun k => b (k + 1)) (transition s)) := by
  induction n with
  | zero => simp [stepSum]
  | succ n ih => rw [stepSum, ih, stepSum, stepsOn_succ', Quad.xor_assoc]

theorem stepSum_transition (n : Nat) (b : Nat → Bool) (s : Quad) :
    stepSum n b (transition s) = transition (stepSum n b s) := by
  induction n with
  | zero => exact transition_zero.symm
  | succ n ih =>
    rw [stepSum, stepSum, transition_xor, ih, ← stepsOn_succ', stepsOn_succ, apply_ite transition,
      transition_zero]

/-- Bit k of four words, numbered as the bits of a polynomial are (R150). -/
def quadBit (s : Quad) (k : Nat) : Bool := (s.toList.getD (k / 64) 0).getLsbD (k % 64)

/-- A jump is the sum over the set bits of its polynomial. -/
theorem jumpBy_eq_stepSum (p s : Quad) : jumpBy p s = stepSum 256 (quadBit p) s := by
  have hsum (n : Nat) (b : Nat → Bool) :
      (((List.range n).filter b).map fun k => stepsOn k s).foldl Quad.xor Quad.zero =
        stepSum n b s := by
    induction n with
    | zero => rfl
    | succ n ih =>
      rw [List.range_succ, List.filter_append, List.map_append, List.foldl_append, ih, stepSum]
      cases hb : b n <;> simp [hb]
  rw [jumpBy_eq_foldl, hsum]
  rfl

/-! ### Numbers as polynomials -/

/-- The number that words spell, the first word least significant. -/
def natOfWords : List Word → Nat
  | [] => 0
  | w :: ws => 2 ^ 64 * natOfWords ws + w.toNat

theorem testBit_natOfWords (ws : List Word) (k : Nat) :
    (natOfWords ws).testBit k = (ws.getD (k / 64) 0).getLsbD (k % 64) := by
  induction ws generalizing k with
  | nil => simp [natOfWords]
  | cons w ws ih =>
    rw [natOfWords, Nat.testBit_two_pow_mul_add _ w.isLt]
    rcases Nat.lt_or_ge k 64 with hk | hk
    · rw [if_pos hk, Nat.div_eq_of_lt hk, Nat.mod_eq_of_lt hk, List.getD_cons_zero, BitVec.getLsbD]
    · obtain ⟨j, rfl⟩ := Nat.exists_eq_add_of_le hk
      rw [if_neg (by omega), ih, Nat.add_sub_cancel_left, Nat.add_div_left _ (by decide),
        Nat.add_mod_left, List.getD_cons_succ]

/-- The polynomial of degree below 256 in the low bits of `p`, in the transition, at `s`. -/
def polyAt (p : Nat) (s : Quad) : Quad := stepSum 256 p.testBit s

theorem polyAt_xor (p q : Nat) (s : Quad) : polyAt (p ^^^ q) s = (polyAt p s).xor (polyAt q s) := by
  have hbits : (p ^^^ q).testBit = fun k => p.testBit k ^^ q.testBit k :=
    funext fun k => Nat.testBit_xor p q k
  rw [polyAt, hbits, stepSum_xor, polyAt, polyAt]

theorem polyAt_zero (s : Quad) : polyAt 0 s = Quad.zero := by
  have hbits : (0 : Nat).testBit = fun _ => false := funext Nat.zero_testBit
  rw [polyAt, hbits, stepSum_false]

theorem polyAt_one (s : Quad) : polyAt 1 s = s := by
  have hbits : (fun k => (1 : Nat).testBit (k + 1)) = fun _ => false := by
    funext k
    simp [Nat.testBit_succ]
  rw [polyAt, stepSum_succ', hbits, stepSum_false]
  simp

theorem jumpBy_eq_polyAt (p s : Quad) : jumpBy p s = polyAt (natOfWords p.toList) s := by
  rw [jumpBy_eq_stepSum, polyAt]
  exact stepSum_congr (fun k _ => (testBit_natOfWords p.toList k).symm) s

end Sys2Proof.Machine
end
section
/-! PROOFS. The transition satisfies its characteristic polynomial: 256 steps are a jump. One run of the
jump loop shows it, on words whose bits are linear forms in the 256 bits of the state. -/

namespace Sys2Proof.Machine

/-! ### Linear forms in the bits of a state -/

/-- The parity of the common set bits below n: the linear form with the coefficients `a` at `v`. -/
def dot : Nat → (Nat → Bool) → (Nat → Bool) → Bool
  | 0, _, _ => false
  | n + 1, a, v => dot n a v ^^ (a n && v n)

theorem dot_congr {n : Nat} {a b : Nat → Bool} (h : ∀ k < n, a k = b k) (v : Nat → Bool) :
    dot n a v = dot n b v := by
  induction n with
  | zero => rfl
  | succ n ih => rw [dot, dot, ih fun k hk => h k (by omega), h n (by omega)]

theorem dot_false (n : Nat) (v : Nat → Bool) : dot n (fun _ => false) v = false := by
  induction n with
  | zero => rfl
  | succ n ih => simp [dot, ih]

theorem dot_xor (n : Nat) (a b v : Nat → Bool) :
    dot n (fun k => a k ^^ b k) v = (dot n a v ^^ dot n b v) := by
  induction n with
  | zero => rfl
  | succ n ih =>
    rw [dot, dot, dot, ih, Bool.and_xor_distrib_right, Bool.xor_assoc, Bool.xor_assoc,
      Bool.xor_left_comm (dot n b v)]

theorem dot_single {n c : Nat} (hc : c < n) (v : Nat → Bool) :
    dot n (fun k => decide (k = c)) v = v c := by
  induction n with
  | zero => omega
  | succ n ih =>
    rw [dot]
    obtain hlt | rfl := Nat.lt_succ_iff_lt_or_eq.1 hc
    · simp [ih hlt, show n ≠ c by omega]
    · have hbelow : dot c (fun k => decide (k = c)) v = dot c (fun _ => false) v :=
        dot_congr (fun k hk => by simp [hk.ne]) v
      simp [hbelow, dot_false]

/-! ### Words of forms -/

/-- The forms of the 64 bits of a word, 256 coefficients each: coefficient k of the form of bit i is bit
256 i + k. -/
abbrev FormWord := BitVec 16384

/-- The word `w` is what the forms `x` give at `v`. -/
def FormWord.At (v : Nat → Bool) (x : FormWord) (w : Word) : Prop :=
  ∀ i < 64, w.getLsbD i = dot 256 (fun k => x.getLsbD (256 * i + k)) v

/-- The left shift of a word by 17, on its forms. -/
def FormWord.shl17 (x : FormWord) : FormWord := x <<< (256 * 17)

/-- The rotation of a word left by 45, on its forms. -/
def FormWord.rotl45 (x : FormWord) : FormWord := x <<< (256 * 45) ||| x >>> (256 * 19)

variable {v : Nat → Bool} {x y : FormWord} {w u : Word}

theorem FormWord.At.unique (hw : x.At v w) (hu : x.At v u) : w = u :=
  BitVec.eq_of_getLsbD_eq fun i hi => (hw i hi).trans (hu i hi).symm

theorem FormWord.at_zero : FormWord.At v 0 0 := fun i _ => by
  simp [dot_false]

theorem FormWord.At.xor (hw : x.At v w) (hu : y.At v u) : FormWord.At v (x ^^^ y) (w ^^^ u) :=
  fun i hi => by
    rw [BitVec.getLsbD_xor, hw i hi, hu i hi, ← dot_xor]
    simp only [BitVec.getLsbD_xor]

theorem FormWord.At.shl17 (hw : x.At v w) : FormWord.At v (FormWord.shl17 x) (shl w 17) :=
  fun i hi => by
    rw [shl, BitVec.getLsbD_shiftLeft]
    by_cases h : i < 17
    · have hzero : dot 256 (fun k => x.shl17.getLsbD (256 * i + k)) v = dot 256 (fun _ => false) v :=
        dot_congr (fun k hk => by
          simp [FormWord.shl17, show 256 * i + k < 256 * 17 by omega]) v
      simp [hzero, dot_false, h]
    · rw [show (decide (i < 64) && !decide (i < 17) && w.getLsbD (i - 17)) = w.getLsbD (i - 17) by
        simp [hi, h], hw (i - 17) (by omega)]
      refine dot_congr (fun k hk => ?_) v
      rw [FormWord.shl17, BitVec.getLsbD_shiftLeft]
      simp [show 256 * i + k < 16384 by omega, show ¬256 * i + k < 4352 by omega,
        show 256 * i + k - 4352 = 256 * (i - 17) + k by omega]

theorem FormWord.getLsbD_rotl45 {i k : Nat} (hi : i < 64) (hk : k < 256) :
    (FormWord.rotl45 x).getLsbD (256 * i + k) =
      if i < 45 then x.getLsbD (256 * (64 - 45 + i) + k) else x.getLsbD (256 * (i - 45) + k) := by
  rw [FormWord.rotl45, BitVec.getLsbD_or, BitVec.getLsbD_shiftLeft, BitVec.getLsbD_ushiftRight]
  split
  · simp [show 256 * i + k < 256 * 45 by omega,
      show 256 * 19 + (256 * i + k) = 256 * (64 - 45 + i) + k by omega]
  · rw [BitVec.getLsbD_of_ge x (256 * 19 + (256 * i + k)) (by omega)]
    simp [show ¬256 * i + k < 256 * 45 by omega, show 256 * i + k < 16384 by omega,
      show 256 * i + k - 256 * 45 = 256 * (i - 45) + k by omega]

theorem FormWord.At.rotl45 (hw : x.At v w) : FormWord.At v (FormWord.rotl45 x) (rotl w 45) :=
  fun i hi => by
    rw [getLsbD_rotl w 45 i (by decide) hi, dot_congr (fun k hk => getLsbD_rotl45 hi hk)]
    split
    · exact hw _ (by omega)
    · exact hw _ (by omega)

/-! ### States of forms -/

/-- The forms of the four words of a state. -/
structure Forms where
  w0 : FormWord
  w1 : FormWord
  w2 : FormWord
  w3 : FormWord
deriving DecidableEq

/-- The state `s` is what the forms `f` give at `v`. -/
def Forms.At (v : Nat → Bool) (f : Forms) (s : Quad) : Prop :=
  f.w0.At v s.w0 ∧ f.w1.At v s.w1 ∧ f.w2.At v s.w2 ∧ f.w3.At v s.w3

/-- The forms of the zero state. -/
def Forms.zero : Forms := ⟨0, 0, 0, 0⟩

/-- The word-by-word exclusive OR of R150 on forms. -/
def Forms.xor (f g : Forms) : Forms :=
  ⟨f.w0 ^^^ g.w0, f.w1 ^^^ g.w1, f.w2 ^^^ g.w2, f.w3 ^^^ g.w3⟩

/-- The transition of R123 on forms. -/
def Forms.transition (f : Forms) : Forms :=
  let u2 := f.w2 ^^^ f.w0
  let u3 := f.w3 ^^^ f.w1
  ⟨f.w0 ^^^ u3, f.w1 ^^^ u2, u2 ^^^ f.w1.shl17, FormWord.rotl45 u3⟩

/-- The loop of R150 on forms: the accumulators and the cursor that it leaves. -/
def Forms.jumpLoop : List Bool → Forms → Forms → Forms × Forms
  | [], acc, cur => (acc, cur)
  | b :: bits, acc, cur => jumpLoop bits (if b then acc.xor cur else acc) cur.transition

variable {f g : Forms} {s t : Quad}

theorem Forms.At.unique (hs : f.At v s) (ht : f.At v t) : s = t := by
  obtain ⟨hs0, hs1, hs2, hs3⟩ := hs
  obtain ⟨ht0, ht1, ht2, ht3⟩ := ht
  exact Quad.ext (hs0.unique ht0) (hs1.unique ht1) (hs2.unique ht2) (hs3.unique ht3)

theorem Forms.at_zero : Forms.At v Forms.zero Quad.zero :=
  ⟨FormWord.at_zero, FormWord.at_zero, FormWord.at_zero, FormWord.at_zero⟩

theorem Forms.At.xor (hs : f.At v s) (ht : g.At v t) : (f.xor g).At v (s.xor t) := by
  obtain ⟨hs0, hs1, hs2, hs3⟩ := hs
  obtain ⟨ht0, ht1, ht2, ht3⟩ := ht
  exact ⟨hs0.xor ht0, hs1.xor ht1, hs2.xor ht2, hs3.xor ht3⟩

theorem Forms.At.transition (h : f.At v s) : f.transition.At v (Machine.transition s) := by
  obtain ⟨h0, h1, h2, h3⟩ := h
  exact ⟨h0.xor (h3.xor h1), h1.xor (h2.xor h0), (h2.xor h0).xor h1.shl17, (h3.xor h1).rotl45⟩

/-- The loop on forms leaves the forms of what the loop on states leaves. -/
theorem Forms.At.jumpLoop {acc cur : Forms} (bits : List Bool) (hs : acc.At v s) (ht : cur.At v t) :
    (Forms.jumpLoop bits acc cur).1.At v (Machine.jumpLoop bits s t) ∧
      (Forms.jumpLoop bits acc cur).2.At v (stepsOn bits.length t) := by
  induction bits generalizing acc cur s t with
  | nil => exact ⟨by rwa [jumpLoop_nil], ht⟩
  | cons b bits ih =>
    rw [jumpLoop_cons, List.length_cons, stepsOn_succ', Forms.jumpLoop]
    refine ih ?_ ht.transition
    cases b
    · exact hs
    · exact hs.xor ht

/-! ### The bits of the state as forms in themselves -/

/-- The forms of n bits that are the variables from c on: bit i is variable c + i. -/
def FormWord.vars (c : Nat) : Nat → FormWord
  | 0 => 0
  | n + 1 => vars c n ^^^ BitVec.twoPow 16384 (257 * n + c)

theorem FormWord.getLsbD_vars {c n i k : Nat} (hn : n ≤ 64) (hc : c ≤ 192) (hi : i < 64)
    (hk : k < 256) :
    (FormWord.vars c n).getLsbD (256 * i + k) = decide (i < n ∧ k = c + i) := by
  induction n with
  | zero => simp [vars]
  | succ n ih =>
    have hbit : (BitVec.twoPow 16384 (257 * n + c)).getLsbD (256 * i + k) =
        decide (i = n ∧ k = c + i) := by
      rw [BitVec.getLsbD_twoPow, decide_eq_true (show 257 * n + c < 16384 by omega), Bool.true_and]
      exact decide_eq_decide.2 (by omega)
    rw [vars, BitVec.getLsbD_xor, ih (by omega), hbit]
    obtain hlt | rfl | hgt := lt_trichotomy i n
    · simp [hlt, hlt.ne, hlt.le]
    · simp
    · simp [hgt.not_gt, hgt.ne', hgt.not_ge]

/-- All 256 bits of a state, as variables. -/
def Forms.vars : Forms :=
  ⟨FormWord.vars 0 64, FormWord.vars 64 64, FormWord.vars 128 64, FormWord.vars 192 64⟩

theorem FormWord.at_vars {j : Nat} (hj : j < 4) (s : Quad) :
    FormWord.At (quadBit s) (FormWord.vars (64 * j) 64) (s.toList.getD j 0) := fun i hi => by
  have hform : dot 256 (fun k => (FormWord.vars (64 * j) 64).getLsbD (256 * i + k)) (quadBit s) =
      dot 256 (fun k => decide (k = 64 * j + i)) (quadBit s) :=
    dot_congr (fun k hk => by
      simp [getLsbD_vars (le_refl 64) (show 64 * j ≤ 192 by omega) hi hk, hi]) _
  rw [hform, dot_single (by omega), quadBit, show (64 * j + i) / 64 = j by omega,
    show (64 * j + i) % 64 = i by omega]

theorem Forms.at_vars (s : Quad) : Forms.vars.At (quadBit s) s :=
  ⟨FormWord.at_vars (j := 0) (by decide) s, FormWord.at_vars (j := 1) (by decide) s,
    FormWord.at_vars (j := 2) (by decide) s, FormWord.at_vars (j := 3) (by decide) s⟩

/-! ### The characteristic polynomial -/

/-- The characteristic polynomial of the transition without its term of degree 256. -/
def CHAR_POLY : Quad :=
  ⟨0x9d116f2bb0f0f001, 0x0280002bcefd1a5e, 0x04b4edcf26259f85, 0x0003c03c3f3ecb19⟩

/-- The loop on the variables: the accumulators and the cursor end equal. -/
theorem jumpLoop_vars_CHAR_POLY :
    (Forms.jumpLoop (polyBits CHAR_POLY) Forms.zero Forms.vars).1 =
      (Forms.jumpLoop (polyBits CHAR_POLY) Forms.zero Forms.vars).2 := by decide +kernel

/-- The transition satisfies its characteristic polynomial. -/
theorem jumpBy_CHAR_POLY (s : Quad) : jumpBy CHAR_POLY s = stepsOn 256 s := by
  obtain ⟨hacc, hcur⟩ := Forms.At.jumpLoop (polyBits CHAR_POLY) Forms.at_zero (Forms.at_vars s)
  rw [jumpLoop_vars_CHAR_POLY] at hacc
  rw [length_polyBits] at hcur
  exact hacc.unique hcur

end Sys2Proof.Machine
end
section
/-! PROOFS. The distances of the jumps (R154, R155): the 2^k-th power of the transition is x squared k
times modulo the characteristic polynomial, and after 128 and 192 squarings that is JUMP_POLY and
LJUMP_POLY. -/

namespace Sys2Proof.Machine

/-! ### Arithmetic modulo the characteristic polynomial -/

/-- The characteristic polynomial as a number. -/
def charNat : Nat := natOfWords (CHAR_POLY.toList ++ [1])

theorem polyAt_charNat (s : Quad) : polyAt charNat s = stepsOn 256 s := by
  rw [← jumpBy_CHAR_POLY, jumpBy_eq_polyAt]
  refine stepSum_congr (fun k hk => ?_) s
  rw [charNat, testBit_natOfWords, testBit_natOfWords, List.getD_append _ _ _ _ (by simp; omega)]

/-- The product of the polynomial `p` and x. -/
def timesX (p : Nat) : Nat := 2 * p ^^^ p / 2 ^ 255 % 2 * charNat

/-- The product of `p` and the polynomial in the n low bits of `q`, added to `acc`. -/
def mulLoop : Nat → Nat → Nat → Nat → Nat
  | 0, _, _, acc => acc
  | n + 1, q, p, acc => mulLoop n (q / 2) (timesX p) (acc ^^^ q % 2 * p)

/-- The square of the polynomial `p`. -/
def square (p : Nat) : Nat := mulLoop 256 p p 0

theorem polyAt_bool_mul (b : Bool) (p : Nat) (s : Quad) :
    polyAt (b.toNat * p) s = if b then polyAt p s else Quad.zero := by
  cases b <;> simp [polyAt_zero]

/-- Doubling moves every coefficient one up, and the one that leaves the low 256 comes back as the
characteristic polynomial. -/
theorem polyAt_timesX (p : Nat) (s : Quad) : polyAt (timesX p) s = transition (polyAt p s) := by
  have hup (k : Nat) : (2 * p).testBit (k + 1) = p.testBit k := by
    rw [Nat.testBit_succ, Nat.mul_div_cancel_left _ (by decide)]
  have htop : (2 * p).testBit 256 = p.testBit 255 := hup 255
  have hlow : (2 * p).testBit 0 = false := by simp
  calc polyAt (timesX p) s
      = (stepSum 256 (2 * p).testBit s).xor (if p.testBit 255 then stepsOn 256 s else Quad.zero) := by
        rw [timesX, polyAt_xor, ← Nat.toNat_testBit, polyAt_bool_mul, polyAt_charNat, polyAt]
    _ = stepSum (256 + 1) (2 * p).testBit s := by rw [stepSum_succ 256, htop]
    _ = stepSum 256 p.testBit (transition s) := by
        rw [stepSum_succ', hlow]
        simp [hup]
    _ = transition (polyAt p s) := stepSum_transition 256 _ s

theorem polyAt_mulLoop (n q p acc : Nat) (s : Quad) :
    polyAt (mulLoop n q p acc) s = (polyAt acc s).xor (stepSum n q.testBit (polyAt p s)) := by
  induction n generalizing q p acc with
  | zero => rw [mulLoop, stepSum, Quad.xor_zero]
  | succ n ih =>
    have hbit : q % 2 = (q.testBit 0).toNat := by rw [Nat.toNat_testBit, pow_zero, Nat.div_one]
    have hrest : (q / 2).testBit = fun k => q.testBit (k + 1) :=
      funext fun k => (Nat.testBit_succ q k).symm
    rw [mulLoop, ih, polyAt_xor, hbit, polyAt_bool_mul, polyAt_timesX, hrest, stepSum_succ',
      Quad.xor_assoc]

theorem polyAt_square (p : Nat) (s : Quad) : polyAt (square p) s = polyAt p (polyAt p s) := by
  rw [square, polyAt_mulLoop, polyAt_zero, Quad.zero_xor]
  rfl

/-- The polynomial x is one step. -/
theorem polyAt_two (s : Quad) : polyAt 2 s = stepsOn 1 s := by
  have htwo : 2 = timesX 1 := by decide
  rw [htwo, polyAt_timesX, polyAt_one]
  rfl

/-! ### Repeated squaring -/

/-- Each squaring doubles the number of steps. -/
theorem polyAt_iterate_square {p n : Nat} (h : ∀ s, polyAt p s = stepsOn n s) (k : Nat) (s : Quad) :
    polyAt (square^[k] p) s = stepsOn (n * 2 ^ k) s := by
  induction k generalizing s with
  | zero => rw [Function.iterate_zero_apply, h, pow_zero, mul_one]
  | succ k ih =>
    rw [Function.iterate_succ_apply', polyAt_square, ih, ih, ← stepsOn_add, pow_succ, ← mul_assoc,
      mul_two]

theorem iterate_square_JUMP_POLY : square^[128] 2 = natOfWords JUMP_POLY.toList := by decide +kernel

theorem iterate_square_LJUMP_POLY :
    square^[64] (natOfWords JUMP_POLY.toList) = natOfWords LJUMP_POLY.toList := by decide +kernel

/-- JUMP_POLY is 2^128 steps (R154). -/
theorem jumpBy_JUMP_POLY (s : Quad) : jumpBy JUMP_POLY s = stepsOn (2 ^ 128) s := by
  rw [jumpBy_eq_polyAt, ← iterate_square_JUMP_POLY, polyAt_iterate_square polyAt_two, one_mul]

/-- LJUMP_POLY is 2^192 steps (R155). -/
theorem jumpBy_LJUMP_POLY (s : Quad) : jumpBy LJUMP_POLY s = stepsOn (2 ^ 192) s := by
  have hjump (q : Quad) : polyAt (natOfWords JUMP_POLY.toList) q = stepsOn (2 ^ 128) q := by
    rw [← jumpBy_eq_polyAt, jumpBy_JUMP_POLY]
  rw [jumpBy_eq_polyAt, ← iterate_square_LJUMP_POLY, polyAt_iterate_square hjump, ← pow_add]

/-! ### Jumps in a row -/

/-- As `State.writeSM_respond`, for a write of `S`. -/
theorem State.writeS_respond (s : State) (q : Quad) (ws : List Word) : (s.writeS q).respond ws =
    { s with xs := q, responses := s.responses ++ [⟨.ok, ws⟩] } := (rfl)

theorem effect_xjump (s : State) : effect .xjump s =
    { s with xs := stepsOn (2 ^ 128) s.xs, responses := s.responses ++ [⟨.ok, []⟩] } := by
  rw [effect, jumpBy_JUMP_POLY, State.writeS_respond]

theorem effect_xljump (s : State) : effect .xljump s =
    { s with xs := stepsOn (2 ^ 192) s.xs, responses := s.responses ++ [⟨.ok, []⟩] } := by
  rw [effect, jumpBy_LJUMP_POLY, State.writeS_respond]

/-- Two commands in a row on a loaded unit, each with its effect. -/
theorem execList_pair_of_loaded {i j : Instr} {s : State} (h : s.xv = true) :
    execList [i, j] s = .next (effect j (effect i s)) := by
  rw [execList_cons_of_executed (by simp [h]),
    execList_cons_of_executed (by simp [effect_xv, h]), execList_nil]

/-- XJUMP i times over on a loaded unit. -/
theorem execList_replicate_xjump (i : Nat) {s : State} (h : s.xv = true) :
    ∃ t, execList (List.replicate i .xjump) s = .next t ∧ t.xs = stepsOn (i * 2 ^ 128) s.xs := by
  induction i generalizing s with
  | zero => exact ⟨s, execList_nil s, by rw [zero_mul, stepsOn_zero]⟩
  | succ i ih =>
    obtain ⟨t, ht, hxs⟩ := ih (s := effect .xjump s) (by rw [effect_xv, h, Bool.or_true])
    refine ⟨t, ?_, ?_⟩
    · rw [List.replicate_succ, execList_cons_of_executed (by simp [h]), ht]
    · rw [hxs, effect_xjump, ← stepsOn_add, Nat.succ_mul]

end Sys2Proof.Machine

namespace Sys2Proof.Proofs
open Sys2Proof.Machine

/-- Settles O28: JUMP_POLY is x squared 128 times modulo the characteristic polynomial. -/
theorem xjumpSkips2Pow128Steps : Obligations.XjumpSkips2Pow128Steps := by
  refine fun s h => ⟨by rw [exec_of_loaded h, effect_xjump],
    ⟨_, execList_pair_of_loaded h, ?_⟩,
    fun v => ⟨_, _, execList_pair_of_loaded h, execList_pair_of_loaded h, ?_⟩⟩
  · rw [effect_xjump, effect_xjump, ← stepsOn_add, ← two_mul, ← pow_succ']
  · rw [effect_xnext, effect_xnext, effect_xjump, effect_xjump, State.xnext_xs, State.xnext_xs,
      ← stepsOn_succ, ← stepsOn_succ']

/-- Settles O29: LJUMP_POLY is JUMP_POLY squared 64 times more. -/
theorem xljumpSkips2Pow192Steps : Obligations.XljumpSkips2Pow192Steps := by
  refine fun s h => ⟨by rw [exec_of_loaded h, effect_xljump],
    ⟨_, execList_pair_of_loaded h, ?_⟩⟩
  rw [execList_pair_of_loaded h]
  simp only [effect_xjump, effect_xljump, ← stepsOn_add, Nat.add_comm (2 ^ 128)]

/-- Settles O51: XSEED loads the expanded seed, and each XJUMP adds its distance. -/
theorem workersStand2Pow128StepsApart : Obligations.WorkersStand2Pow128StepsApart := by
  intro i s
  rw [execList_cons_of_executed rfl]
  exact execList_replicate_xjump i (s := effect .xseed s) rfl

end Sys2Proof.Proofs
end

section
/-! PROOFS. The double of a word (spec/43_utility.md R172): its pattern as a number, from which come its
value (spec/93_implementation_defined.md K8) and its order. -/

namespace Sys2Proof.Machine

/-! ### The pattern as a number -/

/-- The pattern of `v * 2^-53` as a number, for `v` below 2^53: with k the index of the highest set bit
of `v`, the biased exponent is 970 + k, and `v` shifted up until that bit is bit 52 has the fraction
below it. -/
def doubleNat (v : Nat) : Nat :=
  if v = 0 then 0 else (970 + v.log2) * 2 ^ 52 + (v * 2 ^ (52 - v.log2) - 2 ^ 52)

theorem doubleNat_of_ne_zero {v : Nat} (h : v ≠ 0) :
    doubleNat v = (970 + v.log2) * 2 ^ 52 + (v * 2 ^ (52 - v.log2) - 2 ^ 52) :=
  if_neg h

theorem log2_le_of_lt {v : Nat} (h0 : v ≠ 0) (h : v < 2 ^ 53) : v.log2 ≤ 52 :=
  Nat.le_of_lt_succ ((Nat.log2_lt h0).2 h)

/-- Shifted up, the highest set bit of `v` is bit 52. -/
theorem shifted_bounds {v : Nat} (h0 : v ≠ 0) (h : v < 2 ^ 53) :
    2 ^ 52 ≤ v * 2 ^ (52 - v.log2) ∧ v * 2 ^ (52 - v.log2) < 2 ^ 53 := by
  have hk := log2_le_of_lt h0 h
  have hlow : 2 ^ v.log2 * 2 ^ (52 - v.log2) = 2 ^ 52 := by rw [← pow_add]; congr 1; omega
  have hhigh : 2 ^ (v.log2 + 1) * 2 ^ (52 - v.log2) = 2 ^ 53 := by rw [← pow_add]; congr 1; omega
  constructor
  · rw [← hlow]
    exact Nat.mul_le_mul_right _ (Nat.log2_self_le h0)
  · rw [← hhigh]
    exact Nat.mul_lt_mul_of_pos_right Nat.lt_log2_self (by positivity)

theorem toNat_shr_11_lt (x : Word) : (shr x 11).toNat < 2 ^ 53 := by
  rw [toNat_shr]
  have := x.isLt
  omega

/-- The three fields of a pattern put together, as a number. -/
theorem toNat_fields (e : Nat) (he : e < 2 ^ 11) (f : BitVec 52) :
    (0#1 ++ BitVec.ofNat 11 e ++ f).toNat = e * 2 ^ 52 + f.toNat := by
  rw [BitVec.toNat_append, ← Nat.shiftLeft_add_eq_or_of_lt f.isLt, BitVec.toNat_append,
    BitVec.toNat_ofNat, BitVec.toNat_ofNat, Nat.mod_eq_of_lt he, Nat.shiftLeft_eq]
  simp

theorem toNat_u2dBits (x : Word) : (u2dBits x).toNat = doubleNat (shr x 11).toNat := by
  have hlt := toNat_shr_11_lt x
  by_cases h0 : shr x 11 = 0
  · rw [u2dBits, if_pos h0, h0]
    rfl
  · have hv : (shr x 11).toNat ≠ 0 := fun h => h0 (BitVec.eq_of_toNat_eq h)
    have hk := log2_le_of_lt hv hlt
    obtain ⟨hlow, hhigh⟩ := shifted_bounds hv hlt
    rw [u2dBits, if_neg h0, doubleNat_of_ne_zero hv]
    refine (toNat_fields _ (by omega) _).trans ?_
    rw [BitVec.extractLsb'_toNat, toNat_shl]
    omega

/-! ### The order of the patterns -/

theorem doubleNat_lt_binade {v : Nat} (h0 : v ≠ 0) (h : v < 2 ^ 53) :
    doubleNat v < (971 + v.log2) * 2 ^ 52 := by
  obtain ⟨_, hhigh⟩ := shifted_bounds h0 h
  rw [doubleNat_of_ne_zero h0]
  omega

/-- A larger `v` has a larger exponent, or the same and a larger fraction. -/
theorem doubleNat_lt_of_lt {v w : Nat} (hvw : v < w) (hw : w < 2 ^ 53) :
    doubleNat v < doubleNat w := by
  have hw0 : w ≠ 0 := by omega
  by_cases hv0 : v = 0
  · rw [hv0, doubleNat_of_ne_zero hw0, doubleNat, if_pos rfl]
    omega
  have hlog : v.log2 ≤ w.log2 := by
    rw [Nat.le_log2 hw0]
    exact (Nat.log2_self_le hv0).trans hvw.le
  obtain hlt | heq := hlog.lt_or_eq
  · calc doubleNat v < (971 + v.log2) * 2 ^ 52 := doubleNat_lt_binade hv0 (hvw.trans hw)
      _ ≤ (970 + w.log2) * 2 ^ 52 := Nat.mul_le_mul_right _ (by omega)
      _ ≤ doubleNat w := by
        rw [doubleNat_of_ne_zero hw0]
        exact Nat.le_add_right _ _
  · obtain ⟨hlow, _⟩ := shifted_bounds hv0 (hvw.trans hw)
    have hfraction : v * 2 ^ (52 - v.log2) < w * 2 ^ (52 - v.log2) :=
      Nat.mul_lt_mul_of_pos_right hvw (by positivity)
    rw [doubleNat_of_ne_zero hv0, doubleNat_of_ne_zero hw0, ← heq]
    omega

theorem doubleNat_le_of_le {v w : Nat} (hvw : v ≤ w) (hw : w < 2 ^ 53) :
    doubleNat v ≤ doubleNat w := by
  obtain hlt | rfl := hvw.lt_or_eq
  · exact Nat.le_of_lt (doubleNat_lt_of_lt hlt hw)
  · exact le_rfl

theorem doubleNat_inj {v w : Nat} (hv : v < 2 ^ 53) (hw : w < 2 ^ 53)
    (h : doubleNat v = doubleNat w) : v = w := by
  obtain hlt | heq | hgt := lt_trichotomy v w
  · exact absurd h (doubleNat_lt_of_lt hlt hw).ne
  · exact heq
  · exact absurd h (doubleNat_lt_of_lt hgt hv).ne'

theorem doubleNat_le {v : Nat} (h : v < 2 ^ 53) : doubleNat v ≤ 0x3fefffffffffffff := by
  by_cases h0 : v = 0
  · rw [doubleNat, if_pos h0]
    omega
  · have := doubleNat_lt_binade h0 h
    have := log2_le_of_lt h0 h
    omega

/-! ### The value of a pattern (K8) -/

/-- A pattern given as a number has the value of its exponent and its fraction. -/
theorem doubleValue_of_toNat {w : Word} {e f : Nat} (h : w.toNat = e * 2 ^ 52 + f) (he : 1 ≤ e)
    (he' : e ≤ 1023) (hf : f < 2 ^ 52) :
    doubleValue w = some ((1 + (f : ℚ) / 2 ^ 52) * (2 : ℚ) ^ ((e : ℤ) - 1023)) := by
  have hexponent : doubleExponent w = e := by
    rw [doubleExponent, BitVec.extractLsb'_toNat, h, Nat.shiftRight_eq_div_pow]
    omega
  have hfraction : doubleFraction w = f := by
    rw [doubleFraction, BitVec.extractLsb'_toNat, h, Nat.shiftRight_zero]
    omega
  have hsign : doubleSign w = false := by
    rw [doubleSign, BitVec.getLsbD, h]
    exact Nat.testBit_lt_two_pow (by omega)
  have hne : w ≠ 0 := by
    rintro rfl
    rw [show (0 : Word).toNat = 0 from rfl] at h
    omega
  rw [doubleValue, if_neg hne, if_pos ⟨hsign, by omega, by omega⟩, hexponent, hfraction]

/-- The fraction and the exponent of R172 give back `v * 2^-53`. -/
theorem fraction_mul_exponent {v k f : Nat} (hk : k ≤ 52) (hf : v * 2 ^ (52 - k) = 2 ^ 52 + f) :
    (1 + (f : ℚ) / 2 ^ 52) * (2 : ℚ) ^ (((970 + k : Nat) : ℤ) - 1023) = (v : ℚ) / 2 ^ 53 := by
  have hshift : (2 : ℚ) ^ 52 = 2 ^ (52 - k) * 2 ^ k := by rw [← pow_add]; congr 1; omega
  have hscale : (2 : ℚ) ^ (((970 + k : Nat) : ℤ) - 1023) = 2 ^ k / 2 ^ 53 := by
    rw [show ((970 + k : Nat) : ℤ) - 1023 = (k : ℤ) - (53 : ℕ) by push_cast; ring,
      zpow_sub₀ two_ne_zero, zpow_natCast, zpow_natCast]
  have hfraction : 1 + (f : ℚ) / 2 ^ 52 = v * 2 ^ (52 - k) / 2 ^ 52 := by
    rw [eq_div_iff (by positivity), add_mul, one_mul, div_mul_cancel₀ _ (by positivity)]
    exact_mod_cast hf.symm
  rw [hfraction, hscale, hshift]
  field_simp

theorem doubleValue_u2dBits (x : Word) :
    doubleValue (u2dBits x) = some (((shr x 11).toNat : ℚ) / 2 ^ 53) := by
  have hlt := toNat_shr_11_lt x
  by_cases h0 : shr x 11 = 0
  · rw [u2dBits, if_pos h0, h0]
    simp [doubleValue]
  · have hv : (shr x 11).toNat ≠ 0 := fun h => h0 (BitVec.eq_of_toNat_eq h)
    have hk := log2_le_of_lt hv hlt
    obtain ⟨hlow, hhigh⟩ := shifted_bounds hv hlt
    have hnat := (toNat_u2dBits x).trans (doubleNat_of_ne_zero hv)
    rw [doubleValue_of_toNat hnat (by omega) (by omega) (by omega),
      fraction_mul_exponent (v := (shr x 11).toNat) hk (by omega)]

end Sys2Proof.Machine

namespace Sys2Proof.Proofs
open Sys2Proof.Machine

/-- Settles O32: the value from the pattern's exponent and fraction; and 53 bits are below 2^53. -/
theorem doubleIsExact : Obligations.DoubleIsExact := by
  intro x
  have hlt : ((shr x 11).toNat : ℚ) < 2 ^ 53 := by exact_mod_cast toNat_shr_11_lt x
  exact ⟨doubleValue_u2dBits x, by positivity, (div_lt_one (by positivity)).2 hlt⟩

/-- Settles O33: the pattern is a strictly increasing function of the high 53 bits. -/
theorem doubleDependsOnHigh53Bits : Obligations.DoubleDependsOnHigh53Bits := by
  refine ⟨fun x y => ⟨fun h => ?_, fun h => ?_⟩, fun x y h => ?_, fun x => ?_⟩
  · have hnat : doubleNat (shr x 11).toNat = doubleNat (shr y 11).toNat := by
      rw [← toNat_u2dBits, ← toNat_u2dBits, h]
    exact BitVec.eq_of_toNat_eq (doubleNat_inj (toNat_shr_11_lt x) (toNat_shr_11_lt y) hnat)
  · have hshr : shr x 11 = shr y 11 := h
    rw [u2dBits, u2dBits, hshr]
  · rw [toNat_u2dBits, toNat_u2dBits]
    refine doubleNat_le_of_le ?_ (toNat_shr_11_lt y)
    rw [toNat_shr, toNat_shr]
    exact Nat.div_le_div_right h
  · rw [toNat_u2dBits]
    exact doubleNat_le (toNat_shr_11_lt x)

end Sys2Proof.Proofs
end

section
/-! PROOFS. The beats of a response (spec/20_memory.md R63). -/

namespace Sys2Proof.Machine

theorem dataBeats_cons {code : BitVec 2} {w : Word} {ws : List Word} (h : ws ≠ []) :
    dataBeats code (w :: ws) = ⟨code, some w, false⟩ :: dataBeats code ws :=
  dataBeats.eq_3 code w ws h

theorem length_dataBeats (code : BitVec 2) (ws : List Word) :
    (dataBeats code ws).length = ws.length := by
  induction ws using dataBeats.induct with
  | case1 => rfl
  | case2 w => rfl
  | case3 w ws hne ih => rw [dataBeats_cons hne, List.length_cons, ih, List.length_cons]

theorem filterMap_data_dataBeats (code : BitVec 2) (ws : List Word) :
    (dataBeats code ws).filterMap Beat.data = ws := by
  induction ws using dataBeats.induct with
  | case1 => rfl
  | case2 w => rfl
  | case3 w ws hne ih => rw [dataBeats_cons hne, List.filterMap_cons_some (f := Beat.data) rfl, ih]

theorem status_of_mem_dataBeats {code : BitVec 2} {ws : List Word} {b : Beat}
    (h : b ∈ dataBeats code ws) : b.status = code := by
  induction ws using dataBeats.induct with
  | case1 => cases h
  | case2 w => rw [List.mem_singleton.1 h]
  | case3 w ws hne ih =>
    rw [dataBeats_cons hne, List.mem_cons] at h
    obtain rfl | h := h
    · rfl
    · exact ih h

/-- The mark stands on the last beat only. -/
theorem map_last_dataBeats (code : BitVec 2) (ws : List Word) (h : ws ≠ []) :
    (dataBeats code ws).map Beat.last = List.replicate (ws.length - 1) false ++ [true] := by
  induction ws using dataBeats.induct with
  | case1 => exact absurd rfl h
  | case2 w => rfl
  | case3 w ws hne ih =>
    have hlength : ws.length = ws.length - 1 + 1 :=
      (Nat.sub_add_cancel (List.length_pos_iff.2 hne)).symm
    rw [dataBeats_cons hne, List.map_cons, ih hne, List.length_cons, Nat.add_sub_cancel, hlength,
      List.replicate_succ, Nat.add_sub_cancel, List.cons_append]

theorem Response.beats_of_data_ne_nil {r : Response} (h : r.data ≠ []) :
    r.beats = dataBeats r.status.code r.data := by
  unfold beats
  split
  · exact absurd ‹_› h
  · rfl

theorem Response.beats_of_data_eq_nil {r : Response} (h : r.data = []) :
    r.beats = [⟨r.status.code, none, true⟩] := by
  rw [beats, h]

end Sys2Proof.Machine

namespace Sys2Proof.Proofs
open Sys2Proof.Machine

/-- Settles O57: a response with no data is one beat, and one with data is the beats of its words. -/
theorem responseBeatsCarryTheWords : Obligations.ResponseBeatsCarryTheWords := by
  intro r
  by_cases h : r.data = []
  · rw [Response.beats_of_data_eq_nil h, h]
    exact ⟨rfl, rfl, by simp, rfl⟩
  · have hpos : 1 ≤ r.data.length := List.length_pos_iff.2 h
    rw [Response.beats_of_data_ne_nil h, length_dataBeats]
    exact ⟨(Nat.max_eq_right hpos).symm, filterMap_data_dataBeats _ _,
      fun _ => status_of_mem_dataBeats, map_last_dataBeats _ _ h⟩

end Sys2Proof.Proofs
end
section
/-! PROOFS. The assembler: core lines as commands (spec/30_encoding.md R80), and what the
pseudo-commands do (R81). -/

namespace Sys2Proof.Machine

/-! ### The operands of a line (R80) -/

/-- Operands have words when each has one, and then word k is operand k's. -/
theorem mapM_value_eq_some_iff {env : HostEnv} {args : List Operand} {ws : List Word} :
    args.mapM (Operand.value env) = some ws ↔ args.map (Operand.value env) = ws.map some := by
  induction args generalizing ws with
  | nil => cases ws <;> simp
  | cons a args ih =>
    cases ws with
    | nil => simp [List.mapM_cons, Option.bind_eq_some_iff]
    | cons w ws => simp [List.mapM_cons, Option.bind_eq_some_iff, ih]

theorem isSome_mapM_value_iff {env : HostEnv} {args : List Operand} :
    (args.mapM (Operand.value env)).isSome = true ↔ ∀ a ∈ args, (a.value env).isSome = true := by
  induction args with
  | nil => simp
  | cons a args ih =>
    cases ha : a.value env with
    | none => simp [List.mapM_cons, ha]
    | some w =>
      rw [List.forall_mem_cons, ← ih, List.mapM_cons, ha]
      cases args.mapM (Operand.value env) <;> simp

/-- A line assembles when the number of operands is right and every operand has a word. -/
theorem isSome_assemble_iff {env : HostEnv} {l : CoreLine} (hwf : l.cmd.WellFormed) :
    (l.assemble env).isSome = true ↔
      l.args.length = lanesUsed l.cmd ∧ ∀ a ∈ l.args, (a.value env).isSome = true := by
  have hwf' : l.cmd.wf = true := hwf
  by_cases hlength : l.args.length = lanesUsed l.cmd
  · simp [CoreLine.assemble, hwf', hlength, isSome_mapM_value_iff]
  · simp [CoreLine.assemble, hlength]

/-- What a line assembles to: its command's word, and its operands' words on the lanes. -/
theorem assemble_eq_some {env : HostEnv} {l : CoreLine} {c : Command} (h : l.assemble env = some c) :
    l.cmd.WellFormed ∧
      ∃ ws, l.args.map (Operand.value env) = ws.map some ∧ c = ⟨encode l.cmd, lanesOf ws⟩ := by
  rw [CoreLine.assemble, Option.ite_none_right_eq_some] at h
  obtain ⟨hcheck, h⟩ := h
  obtain ⟨ws, hws, rfl⟩ := Option.map_eq_some_iff.1 h
  exact ⟨(Bool.and_eq_true_iff.1 hcheck).1, ws, mapM_value_eq_some_iff.1 hws, rfl⟩

/-- Lane k is word k, and a lane without a word is 0. -/
theorem getElem?_toList_lanesOf {k : Nat} (hk : k < 4) (ws : List Word) :
    (lanesOf ws).toList[k]? = some (ws[k]?.getD 0) := by
  interval_cases k <;> simp [lanesOf, Quad.toList]

/-! ### Issuing lines -/

/-- A line whose command the unit executes binds the words of its response, and leaves the command's
effect on its lanes. -/
theorem issue_of_executed {l : CoreLine} {env : HostEnv} {s : State} {c : Command}
    (hasm : l.assemble env = some c) (hexec : (needsXV l.cmd && !s.xv) = false) :
    l.issue env s = some (l.bind.bindWords l.cmd (effectWords l.cmd (s.accept c [])) env,
      effect l.cmd (s.accept c [])) := by
  have hword : decode c.word = .instr l.cmd := by
    obtain ⟨hwf, ws, _, rfl⟩ := assemble_eq_some hasm
    exact decode_encode hwf
  have hstep : step { s with pending := [.command c] } = .next (effect l.cmd (s.accept c [])) := by
    rw [step_of_decode rfl hword]
    exact congrArg Host.Outcome.next (execNext_of_executed (s := s.accept c []) hexec)
  simp only [CoreLine.issue, hasm, hstep, effect_responses_eq, List.getLast?_concat]

theorem issueLines_nil (env : HostEnv) (s : State) : issueLines [] env s = some (env, s) := (rfl)

theorem issueLines_cons {l : CoreLine} {env env' : HostEnv} {s s' : State}
    (h : l.issue env s = some (env', s')) (ls : List CoreLine) :
    issueLines (l :: ls) env s = issueLines ls env' s' := by
  simp only [issueLines, h]

/-- A listing of one line is its expansion, issued. -/
theorem runListing_singleton (l : AsmLine) (env : HostEnv) (s : State) :
    runListing [l] env s = issueLines l.expand env s := by
  rw [runListing, List.flatMap_singleton]

/-! ### The pseudo-commands (R81) -/

theorem runListing_xnextd (env : HostEnv) {s : State} (v : Variant) (h : s.xv = true) : ∃ env' t,
    runListing [⟨.nothing, .xnextd v, []⟩] env s = some (env', t) ∧ t.xs = transition s.xs ∧
    t.responses = s.responses ++
      [⟨.ok, [outOf v s.xs]⟩, ⟨.ok, [u2dBits (outOf v s.xs)]⟩] := by
  have hnext : CoreLine.issue ⟨.one ['t'], v.xnext, []⟩ env s =
      some ((['t'], .word (outOf v s.xs)) :: env,
        (s.accept ⟨encode v.xnext, lanesOf []⟩ []).xnext v) := by
    rw [issue_of_executed (c := ⟨encode v.xnext, lanesOf []⟩) (by cases v <;> rfl) (by simp [h]),
      effect_xnext]
    cases v <;> rfl
  have hdouble (env : HostEnv) (s : State) (w : Word) :
      CoreLine.issue ⟨.nothing, .u2d, [.name ['t']]⟩ ((['t'], .word w) :: env) s =
        some ((['t'], .word w) :: env, effect .u2d (s.accept ⟨encode .u2d, lanesOf [w]⟩ [])) := by
    rw [issue_of_executed (c := ⟨encode .u2d, lanesOf [w]⟩) rfl rfl]
    rfl
  exact ⟨_, _, (runListing_singleton _ _ _).trans <| (issueLines_cons hnext _).trans <|
    (issueLines_cons (hdouble _ _ _) _).trans (issueLines_nil _ _), by simp [effect],
    by simp [effect, lanesOf]⟩

/-- The words that XSEEDVIA gets from SMGEN are those that XSEED expands the seed to. -/
theorem smgenLoop_four (v : Word) : (smgenLoop 4 v).2 = (seedExpand v).toList := by
  simp only [smgenLoop_succ, smgenLoop_zero]
  rfl

/-- The host's names after the second line of XSEEDVIA: the rule's four names for the words of `q`. -/
def bindFour (q : Quad) (env : HostEnv) : HostEnv :=
  Binding.bindWords (.four ['a'] ['b'] ['c'] ['d']) (.smgen 4) q.toList env

/-- The unit after XSEEDVIA of `v`. -/
theorem runListing_xseedvia (env : HostEnv) (s : State) (v : Word) : ∃ env' t,
    runListing [⟨.nothing, .xseedvia, [.literal v]⟩] env s = some (env', t) ∧
    t.xs = seedExpand v ∧ t.xv = true ∧ t.sm = v + 4 * GAMMA := by
  have hseed : CoreLine.issue ⟨.nothing, .smseed, [.literal v]⟩ env s =
      some (env, effect .smseed (s.accept ⟨encode .smseed, lanesOf [v]⟩ [])) := by
    rw [issue_of_executed (c := ⟨encode .smseed, lanesOf [v]⟩) rfl rfl]
    rfl
  have hgen (s : State) : CoreLine.issue ⟨.four ['a'] ['b'] ['c'] ['d'], .smgen 4, []⟩ env s =
      some (bindFour (seedExpand s.sm) env,
        effect (.smgen 4) (s.accept ⟨encode (.smgen 4), lanesOf []⟩ [])) := by
    rw [issue_of_executed (c := ⟨encode (.smgen 4), lanesOf []⟩) rfl rfl, effectWords, smgenLoop_four,
      State.accept_sm, bindFour]
  have hload (s : State) (q : Quad) : CoreLine.issue
      ⟨.nothing, .xload, [.name ['a'], .name ['b'], .name ['c'], .name ['d']]⟩
      (bindFour q env) s =
      some (bindFour q env, effect .xload (s.accept ⟨encode .xload, q⟩ [])) := by
    rw [issue_of_executed (c := ⟨encode .xload, q⟩) rfl rfl]
    rfl
  exact ⟨_, _, (runListing_singleton _ _ _).trans <| (issueLines_cons hseed _).trans <|
    (issueLines_cons (hgen _) _).trans <| (issueLines_cons (hload _ _) _).trans (issueLines_nil _ _),
    by simp [effect, lanesOf], by simp [effect], by simp [effect, lanesOf, smgenLoop_fst]⟩

/-- The unit after XSEED of `v`. -/
theorem runListing_xseed (env : HostEnv) (s : State) (v : Word) : ∃ env' u,
    runListing [⟨.nothing, .core .xseed, [.literal v]⟩] env s = some (env', u) ∧
    u.xs = seedExpand v ∧ u.xv = true ∧ u.sm = s.sm := by
  have hload := issue_of_executed (l := ⟨.nothing, .xseed, [.literal v]⟩) (env := env) (s := s)
    (c := ⟨encode .xseed, lanesOf [v]⟩) rfl rfl
  exact ⟨_, _, (runListing_singleton _ _ _).trans <| (issueLines_cons hload _).trans
    (issueLines_nil _ _), by simp [effect, lanesOf], by simp [effect], by simp [effect]⟩

end Sys2Proof.Machine

namespace Sys2Proof.Proofs
open Sys2Proof.Machine

/-- Settles O59: the expansions by definition, and what the listings leave, line by line. -/
theorem pseudoCommandsExpand : Obligations.PseudoCommandsExpand := by
  refine ⟨fun _ _ => rfl, fun _ => rfl, fun _ _ _ _ _ => rfl, fun _ _ => rfl, fun _ _ => rfl,
    fun env s v h => runListing_xnextd env v h, fun env s v => ?_⟩
  obtain ⟨e₁, t, ht, htxs, htxv, htsm⟩ := runListing_xseedvia env s v
  obtain ⟨e₂, u, hu, huxs, huxv, husm⟩ := runListing_xseed env s v
  exact ⟨e₁, e₂, t, u, ht, hu, htxs.trans huxs.symm, htxv, huxv, htsm, husm, by decide +kernel⟩

/-- Settles O60: a line assembles to its operands' words on the lanes in order. -/
theorem coreLinesAssemble : Obligations.CoreLinesAssemble := by
  intro env b i args hwf
  refine ⟨isSome_assemble_iff (l := ⟨b, i, args⟩) hwf, fun c hc => ?_⟩
  obtain ⟨_, ws, hws, rfl⟩ := assemble_eq_some hc
  refine ⟨rfl, fun k hk => ?_⟩
  have hword : args[k]?.map (Operand.value env) = ws[k]?.map some := by
    rw [← List.getElem?_map, hws, List.getElem?_map]
  have hbind : args[k]?.bind (Operand.value env) = ws[k]? := by
    simpa [Option.bind_map, Function.comp_def] using congrArg (Option.bind · id) hword
  rw [getElem?_toList_lanesOf hk, hbind]

end Sys2Proof.Proofs
end
